-- ==== Sys2Proof/Word.lean ====
section
/-! DEFINITION. The two widths the hardware moves: a byte (00_scope R9) and the 16-bit address field of a frame (00_scope R8). -/

namespace Sys2Proof

/-- An 8-bit value (00_scope R9). -/
abbrev Byte := BitVec 8

/-- The 16-bit address field of a READ or WRITE frame, "fixed 16-bit field regardless of MAX_ADDRESS width" (00_scope R8). -/
abbrev Addr := BitVec 16

end Sys2Proof
end

