-- ==== Sys2Proof/Config.lean ====
section
/-! DEFINITION. The implementation parameters of 00_scope R7, the values of one build, and the model's free values. -/

namespace Sys2Proof

/-- READ_FRAMING (00_scope R7): one READ transaction for the whole request, or one per byte. -/
inductive ReadFraming
  | burst
  | perByte
  deriving DecidableEq, Repr, Inhabited

/-- An electrical level, the type of CS_ACTIVE_LEVEL (00_scope R7). -/
inductive Level
  | low
  | high
  deriving DecidableEq, Repr, Inhabited

/-- The other level. -/
def Level.inverse : Level → Level
  | .low => .high
  | .high => .low

/-- The two numeric spellings of the response, "required only to differ" (30_encoding R94). Any two different naturals are
`base` and `base + gap + 1` in one order or the other, so the requirement holds of every value of this type. -/
structure StatusCodes where
  base : Nat
  gap : Nat
  okIsLower : Bool
  deriving DecidableEq, Repr, Inhabited

/-- STATUS_CODE_OK (00_scope R7). -/
def StatusCodes.ok (k : StatusCodes) : Nat := if k.okIsLower then k.base else k.base + k.gap + 1

/-- STATUS_CODE_OUT_OF_RANGE (00_scope R7). -/
def StatusCodes.outOfRange (k : StatusCodes) : Nat := if k.okIsLower then k.base + k.gap + 1 else k.base

/-- The configuration record of 00_scope R7. Its constraints (92 D5: `1 <= MAX_ADDRESS <= 65536`, `PAGE_SIZE = 2^k`; `W >= 1`;
distinct status codes) hold of every value of the type, so a configuration outside them (93 U20) cannot be written down
(log 12). DESIGN CHOICE, safe. -/
structure Config where
  /-- `MAX_ADDRESS - 1`, the last address of the device array. -/
  lastAddress : Fin 65536
  /-- `k`, where `PAGE_SIZE = 2^k`. -/
  pageBits : Nat
  /-- T_CSD_MIN, the minimum chip-deselect time, in nanoseconds (or the platform's ticks). -/
  tCsdMin : Nat
  /-- DUMMY_BYTE, the byte sent at a response position. -/
  dummyByte : Byte
  /-- `W - 1`, where W is the width in bits of the host operands. -/
  operandWidthPred : Nat
  readFraming : ReadFraming
  csActiveLevel : Level
  statusCodes : StatusCodes
  deriving DecidableEq, Repr

/-- MAX_ADDRESS, the exclusive upper bound of the address space (00_scope R7). -/
def Config.maxAddress (c : Config) : Nat := c.lastAddress.val + 1

/-- PAGE_SIZE (00_scope R7). -/
def Config.pageSize (c : Config) : Nat := 2 ^ c.pageBits

/-- W (00_scope R7). -/
def Config.operandWidth (c : Config) : Nat := c.operandWidthPred + 1

/-- OPEN (92 D6): no source gives DUMMY_BYTE a value (log 11). -/
opaque Config.openDummyByte : Byte

/-- OPEN (92 D20): the electrical level of an asserted chip-select (log 11). -/
opaque Config.openCsActiveLevel : Level

/-- OPEN (92 D4): the numeric status codes (log 11). -/
opaque Config.openStatusCodes : StatusCodes

/-- FREE VALUE: the `k`-th byte drawn where no rule fixes what the environment returns (93 U5, U7, U8, U10, U16; log 6). -/
opaque Config.freeByte : Nat → Byte

/-- FREE VALUE: how long beyond T_CSD_MIN the hold drawn `k`-th lasts (93 U11; log 7). -/
opaque Config.freeDelay : Nat → Nat

/-- The parameters of the machine that `State.reset` is (log 10): MAX_ADDRESS `0x4000` and PAGE_SIZE `64` are the only values the
document shows, T_CSD_MIN is its `50 ns`, READ_FRAMING the spec's default, W the test vectors' 16. DESIGN CHOICE, unsafe for a claim
about runs from reset alone: every other claim quantifies over the configuration in the state. -/
def Config.build : Config where
  lastAddress := 0x3FFF
  pageBits := 6
  tCsdMin := 50
  dummyByte := Config.openDummyByte
  operandWidthPred := 15
  readFraming := .burst
  csActiveLevel := Config.openCsActiveLevel
  statusCodes := Config.openStatusCodes

end Sys2Proof
end

