-- ==== Sys2Proof/Syntax.lean ====
section
/-! DEFINITION. The eight rows of spec/opcode_table.json as one inductive, and the two encoded forms they have: the bytes of a wire
frame (30_encoding R80, R81) and the host request record (30_encoding R90). -/

namespace Sys2Proof

/-- One constructor for each row of spec/opcode_table.json. -/
inductive Instr
  /-- WREN, write enable, frame F0 (41_command_codec R130). -/
  | wren
  /-- WRDI, write disable, frame F0 (41_command_codec R131). -/
  | wrdi
  /-- RDSR, read status register, frame F1 (41_command_codec R132). -/
  | rdsr
  /-- READ, frame FR: the address field and the number `m` of response positions (41_command_codec R133). -/
  | read (addr : Addr) (positions : Nat)
  /-- WRITE, frame FW: the address field and the data bytes (41_command_codec R134). -/
  | write (addr : Addr) (data : List Byte)
  /-- The host operation that readies the controller, `op = 0` (44_host_operations R190). -/
  | init
  /-- Host `read(address, count, destination)`, `op = 1` (44_host_operations R193). -/
  | hostRead (address count : Nat) (destination : List Byte)
  /-- Host `write(address, count, source)`, `op = 2` (44_host_operations R194). -/
  | hostWrite (address count : Nat) (source : List Byte)
  deriving DecidableEq, Repr

/-- The host request record: three fields "plus, by reference, the buffer the operation uses" (30_encoding R90). The buffer is its
bytes: the source of a WRITE, the destination's present contents for a READ. -/
structure Request where
  op : BitVec 2
  address : Nat
  count : Nat
  buffer : List Byte
  deriving DecidableEq, Repr

/-- The encoded form of an instruction: a record on the request port, or the bytes of one transaction. -/
inductive Encoded
  | request (r : Request)
  | frame (bytes : List Byte)
  deriving DecidableEq, Repr

end Sys2Proof
end

