-- ==== Sys2Proof/WellFormed.lean ====
section
/-! DEFINITION. Which instructions are well formed: the operand bounds of 41_command_codec R133, R134 and 30_encoding R81, R90. -/

namespace Sys2Proof

/-- A host operand fits its W-bit field (30_encoding R90). -/
def Config.operandFits (c : Config) (v : Nat) : Bool := decide (v < 2 ^ c.operandWidth)

/-- The byte range `[a, a + n)` lies in the address space (20_memory R51). -/
def Config.rangeFits (c : Config) (a n : Nat) : Bool := decide (a + n ≤ c.maxAddress)

/-- The byte range `[a, a + n)` lies in one page (20_memory R55), for `n >= 1`. -/
def Config.onePage (c : Config) (a n : Nat) : Bool := decide (a / c.pageSize = (a + n - 1) / c.pageSize)

/-- Well-formedness. The host's buffers are not part of it: a buffer shorter than `count` breaks a duty of the host
(70_reset_and_hazards R260) and stops the machine when the missing byte is reached. -/
def Instr.wf (c : Config) : Instr → Bool
  | .wren => true
  | .wrdi => true
  | .rdsr => true
  | .read a m => decide (1 ≤ m) && c.rangeFits a.toNat m
  | .write a b =>
    decide (1 ≤ b.length) && decide (b.length ≤ c.pageSize) && c.rangeFits a.toNat b.length && c.onePage a.toNat b.length
  | .init => true
  | .hostRead a n _ => c.operandFits a && c.operandFits n
  | .hostWrite a n _ => c.operandFits a && c.operandFits n

end Sys2Proof
end

