-- ==== Sys2Proof/Decode.lean ====
section
/-! DEFINITION. The decoder of both encoded forms, total and rejecting by name; the encoder from the same tables (30_encoding R81 to
R85, R90, R92); and the decoder's reading of a word numbered as spec/opcode_table.json numbers it. -/

namespace Sys2Proof

/-- Why an encoded form stands for no instruction. -/
inductive DecodeError
  /-- Host `op = 3` (30_encoding R95). -/
  | reservedOperation
  /-- A host operand that does not fit the W-bit field (30_encoding R90). -/
  | operandTooWide
  /-- No byte: "`L >= 1`" (40_transport R116). -/
  | emptyFrame
  /-- Byte 0 is none of the five opcodes (30_encoding R85, R95). -/
  | unknownOpcode (b : Byte)
  /-- The frame ends before its format's fixed part does (30_encoding R86). -/
  | frameTooShort
  /-- An F0 or F1 frame with bytes to spare (30_encoding R86). -/
  | frameTooLong
  /-- A READ or WRITE frame with no data position: "`m >= 1`", "`1 <= n`" (30_encoding R81). -/
  | noDataPosition
  deriving DecidableEq, Repr

/-! ### Fields -/

/-- `hi8(a) = a[15:8]` (00_scope R10). -/
def hi8 (a : Addr) : Byte := a.extractLsb' 8 8

/-- `lo8(a) = a[7:0]` (00_scope R10). -/
def lo8 (a : Addr) : Byte := a.extractLsb' 0 8

/-- The address field from its two bytes, the high one sent first (20_memory R53). -/
def joinAddr (high low : Byte) : Addr := high ++ low

/-- WRITE `0x02` (00_scope R6). -/
def opcodeWrite : Byte := 0x02#8
/-- READ `0x03` (00_scope R6). -/
def opcodeRead : Byte := 0x03#8
/-- WRDI `0x04` (00_scope R6). -/
def opcodeWrdi : Byte := 0x04#8
/-- RDSR `0x05` (00_scope R6). -/
def opcodeRdsr : Byte := 0x05#8
/-- WREN `0x06` (00_scope R6). -/
def opcodeWren : Byte := 0x06#8

/-- Host INIT (30_encoding R92). -/
def opInit : BitVec 2 := 0#2
/-- Host READ (30_encoding R92). -/
def opRead : BitVec 2 := 1#2
/-- Host WRITE (30_encoding R92). -/
def opWrite : BitVec 2 := 2#2

/-! ### Decoding -/

/-- An F0 frame: the opcode is the whole of it (30_encoding R81). -/
def parseF0 (i : Instr) : List Byte → Except DecodeError Instr
  | [] => .ok i
  | _ :: _ => .error .frameTooLong

/-- An F1 frame: one response position after the opcode (30_encoding R81). -/
def parseF1 (i : Instr) : List Byte → Except DecodeError Instr
  | [] => .error .frameTooShort
  | [_] => .ok i
  | _ :: _ :: _ => .error .frameTooLong

/-- An FR or FW frame: two address bytes, high first, then the data positions (30_encoding R81). -/
def parseAddressed (build : Addr → List Byte → Instr) : List Byte → Except DecodeError Instr
  | h :: l :: data => .ok (build (joinAddr h l) data)
  | [_] => .error .frameTooShort
  | [] => .error .frameTooShort

/-- A frame read as far as its opcode and its fixed part go: "selects on the whole byte 0" (30_encoding R85). The bytes at response
positions are not looked at, as 20_memory R69 does not. It takes an FR or FW frame whose data positions are all behind it. -/
def parseFrame : List Byte → Except DecodeError Instr
  | [] => .error .emptyFrame
  | o :: rest =>
    if o = opcodeWrite then parseAddressed .write rest
    else if o = opcodeRead then parseAddressed (fun a data => .read a data.length) rest
    else if o = opcodeWrdi then parseF0 .wrdi rest
    else if o = opcodeRdsr then parseF1 .rdsr rest
    else if o = opcodeWren then parseF0 .wren rest
    else .error (.unknownOpcode o)

/-- A data position is there (30_encoding R81). -/
def requireData : Instr → Except DecodeError Instr
  | .read _ 0 => .error .noDataPosition
  | .write _ [] => .error .noDataPosition
  | i => .ok i

/-- The decoder of a whole frame. -/
def decodeFrame (bytes : List Byte) : Except DecodeError Instr :=
  match parseFrame bytes with
  | .ok i => requireData i
  | .error e => .error e

/-- The decoder of a host request (30_encoding R90, R92, R95). INIT ignores `address` and `count`. -/
def decodeRequest (c : Config) (r : Request) : Except DecodeError Instr :=
  if r.op = opInit then .ok .init
  else if r.op = opRead then
    if c.operandFits r.address && c.operandFits r.count then .ok (.hostRead r.address r.count r.buffer) else .error .operandTooWide
  else if r.op = opWrite then
    if c.operandFits r.address && c.operandFits r.count then .ok (.hostWrite r.address r.count r.buffer) else .error .operandTooWide
  else .error .reservedOperation

/-- The decoder of either form. -/
def decode (c : Config) : Encoded → Except DecodeError Instr
  | .request r => decodeRequest c r
  | .frame bytes => decodeFrame bytes

/-! ### Encoding -/

/-- The bytes of a READ frame with `m` response positions, DUMMY_BYTE at each (30_encoding R81, R84). -/
def readFrame (c : Config) (a : Addr) (m : Nat) : List Byte := opcodeRead :: hi8 a :: lo8 a :: List.replicate m c.dummyByte

/-- The bytes of a WRITE frame (30_encoding R81). -/
def writeFrame (a : Addr) (data : List Byte) : List Byte := opcodeWrite :: hi8 a :: lo8 a :: data

/-- The encoder (30_encoding R81, R85, R90, R92). -/
def encode (c : Config) : Instr → Encoded
  | .wren => .frame [opcodeWren]
  | .wrdi => .frame [opcodeWrdi]
  | .rdsr => .frame [opcodeRdsr, c.dummyByte]
  | .read a m => .frame (readFrame c a m)
  | .write a data => .frame (writeFrame a data)
  | .init => .request ⟨opInit, 0, 0, []⟩
  | .hostRead a n buffer => .request ⟨opRead, a, n, buffer⟩
  | .hostWrite a n buffer => .request ⟨opWrite, a, n, buffer⟩

/-! ### Words numbered as the opcode table numbers them -/

/-- The bytes of a table word, byte 0 in bits 7:0. -/
def tableBytes (nbits w : Nat) : List Byte := (List.range ((nbits + 7) / 8)).map fun k => BitVec.ofNat 8 (w / 256 ^ k)

/-- A frame that the table's word leaves unfinished goes on with zero bytes, up to the shortest frame of its opcode
(30_encoding R86: 2 bytes for RDSR, 4 for READ and WRITE). -/
def padFrame : List Byte → List Byte
  | [] => []
  | o :: rest =>
    if o = opcodeRdsr then o :: (rest ++ List.replicate (1 - rest.length) 0#8)
    else if o = opcodeRead then o :: (rest ++ List.replicate (3 - rest.length) 0#8)
    else if o = opcodeWrite then o :: (rest ++ List.replicate (3 - rest.length) 0#8)
    else o :: rest

/-- The encoded form a table word stands for. The table holds two spaces whose words overlap: a word of at most one byte with the
value 0, 1 or 2 is the `op` field of a host request (its other fields zero), every other word is the head of a frame. So the
byte `02` alone is host WRITE, and a wire WRITE is a word of more than 8 bits (log 19). -/
def tableEncoded (nbits w : Nat) : Encoded :=
  if nbits < 8 ∨ (nbits = 8 ∧ w < 3) then .request ⟨BitVec.ofNat 2 w, 0, 0, []⟩
  else .frame (padFrame (tableBytes nbits w))

/-- The instruction the decoder reads from a table word. -/
def decodeTableWord (nbits w : Nat) : Option Instr :=
  match decode Config.build (tableEncoded nbits w) with
  | .ok i => some i
  | .error _ => none

end Sys2Proof
end

