-- ==== Sys2Proof/Machine/State.lean ====
section
/-! DEFINITION. The state of the machine as plain data: the eleven registers of 10_state R30, the host's side of the ports, the
reference device of 20_memory R67, the configuration, and the model's own fields; and the state after reset. -/

namespace Sys2Proof.Machine

/-- The sequencer register's 33 values (10_state R23), the counterpart of a program counter. -/
inductive Phase
  | uninit
  | idle
  | check
  | split
  | pollSel
  | pollOp
  | pollDummy
  | pollDesel
  | pollHold
  | pollTest
  | rdSel
  | rdOp
  | rdAh
  | rdAl
  | rdData
  | rdDesel
  | rdHold
  | wrenSel
  | wrenOp
  | wrenDesel
  | wrenHold
  | wrSel
  | wrOp
  | wrAh
  | wrAl
  | wrData
  | wrDesel
  | wrHold
  | wrdiSel
  | wrdiOp
  | wrdiDesel
  | wrdiHold
  | resp
  deriving DecidableEq, Repr

/-- What the `op` register can hold: "`READ` or `WRITE`; `INIT` is never latched" (10_state R24). -/
inductive HostOp
  | read
  | write
  deriving DecidableEq, Repr

/-- The two bits of the latched operation (30_encoding R92). -/
def HostOp.code : HostOp → BitVec 2
  | .read => opRead
  | .write => opWrite

/-- The response status, `{Ok, OutOfRange}` (10_state R29). -/
inductive Status
  | ok
  | outOfRange
  deriving DecidableEq, Repr

/-- The event alphabet (00_scope R13). -/
inductive Event
  | init
  | req (op : HostOp) (A N : Nat)
  | sel
  | xfer (o v : Byte)
  | desel
  | hold (d : Nat)
  | resp (s : Status)
  deriving DecidableEq, Repr

/-- The device array: (address, byte) pairs, addresses rising, no byte equal to what an unlisted address reads as. -/
abbrev Memory := List Host.Cell

/-- What answers on the link: the reference device of 20_memory R66 to R74, or any device whatever (20_memory R66: the controller's
rules "hold for any bytes the device returns"), whose every byte is any value. -/
inductive DeviceKind
  | reference
  | arbitrary
  deriving DecidableEq, Repr

/-- The reference device's state (20_memory R67), and which kind of device is attached. -/
structure Device where
  kind : DeviceKind
  mem : Memory
  wip : Bool
  pend : List Host.Cell
  wel : Bool
  frame : List Byte
  deriving DecidableEq, Repr

/-- One act of one agent, an entry of the schedule: the controller takes its step; the device's write cycle ends (20_memory R71);
the reset input is asserted and released (70_reset_and_hazards R250); the host presents a further request (10_state R34); the host
stores a byte in the source buffer (93 U21). -/
inductive Move
  | controller
  | complete
  | reset
  | present (r : Request)
  | hostStore (k : Nat) (b : Byte)
  deriving DecidableEq, Repr

/-- The named faults. `abortedTransaction` is only ever recorded in the state; each of the others ends the run. -/
inductive Fault
  /-- Recorded by the reset move in a busy phase (70_reset_and_hazards R251); the run goes on from the reset state. Safe: it is a
  record, and the device may be anything afterwards. -/
  | abortedTransaction
  /-- Raised by READ and WRITE where a buffer access "has no target" (93 U21). Safe: the model stops. -/
  | bufferOutOfBounds
  /-- Raised at `Desel` by the reference device on a WRITE frame that crosses a page, leaves the array or has no data, while its
  latch is set (93 U6). Safe: the model stops; the controller never sends such a frame. -/
  | malformedWrite
  /-- Raised at `Desel` by the reference device on a frame 20_memory R70 gives no row for. Safe: the model stops; the controller
  never sends one. -/
  | undefinedFrame
  deriving DecidableEq, Repr

/-- Why an instruction is refused. -/
inductive Refusal
  /-- Raised by exec's arm of an instruction without a meaning. Safe. -/
  | notModelled (mnemonic : String)
  /-- Raised by the five wire commands in a phase of another command: "none can be invoked by the host" (30_encoding R97). Safe. -/
  | notInvocable
  deriving DecidableEq, Repr

/-- The machine's state. -/
structure State where
  /-- The parameters, changed by no step (00_scope R7). -/
  config : Config
  /-- The sequencer's position (10_state R23). -/
  phase : Phase
  /-- `cs_sel`: chip-select is driven active (10_state R30). -/
  csSel : Bool
  /-- `link_en`: the serial peripheral is enabled (10_state R30). -/
  linkEn : Bool
  /-- The latched operation (10_state R24). -/
  op : HostOp
  /-- The latched address (10_state R24). -/
  A : Nat
  /-- The latched count (10_state R24). -/
  N : Nat
  /-- `currentAddress` of the splitter (10_state R25). -/
  cur : Nat
  /-- `bytesToWrite` of the current chunk (10_state R26). -/
  n : Nat
  /-- The byte counter (10_state R27). -/
  i : Nat
  /-- The last status byte (10_state R28). -/
  sr : BitVec 8
  /-- The status to return (10_state R29). -/
  rstat : Status
  /-- The requests the host presents, one at a time, in this order (10_state R34, 70_reset_and_hazards R258). -/
  requests : List Request
  /-- The source buffer of the current `write` (20_memory R50). -/
  src : List Byte
  /-- The destination buffer of the current `read` (20_memory R50). -/
  dst : List Byte
  /-- The other end of the link. -/
  device : Device
  /-- MODEL: which agent moves next; with nothing left the controller moves (log 5). -/
  schedule : List Move
  /-- MODEL: the bytes the environment returns where no rule fixes them; with none left, free values (log 6). -/
  replies : List Byte
  /-- MODEL: how far beyond T_CSD_MIN the next holds last; with none left, free values (log 7). -/
  delays : List Nat
  /-- MODEL: the counter of free values drawn (log 28). -/
  draws : Nat
  /-- MODEL: the events so far (00_scope R13). -/
  trace : List Event
  /-- MODEL: the fault recorded for the execution (70_reset_and_hazards R251). -/
  recordedFault : Option Fault
  deriving DecidableEq, Repr

/-- The reference device as the model starts it: an array with nothing listed, no write cycle running (20_memory R73: `mem` and `wip`
are arbitrary; log 13, 14). -/
def Device.initial : Device where
  kind := .reference
  mem := []
  wip := false
  pend := []
  wel := false
  frame := []

/-- The machine right after reset for a given configuration (70_reset_and_hazards R250). The registers that "hold no defined value"
hold the values of log 8. -/
def State.resetOf (c : Config) : State where
  config := c
  phase := .uninit
  csSel := false
  linkEn := false
  op := .read
  A := 0
  N := 0
  cur := 0
  n := 0
  i := 0
  sr := 0#8
  rstat := .ok
  requests := []
  src := []
  dst := []
  device := Device.initial
  schedule := []
  replies := []
  delays := []
  draws := 0
  trace := []
  recordedFault := none

/-- The machine right after reset. -/
def State.reset : State := State.resetOf Config.build

end Sys2Proof.Machine
end

