-- ==== Sys2Proof/Machine/Flags.lean ====
section
/-! DEFINITION. The controller has no flags (10_state R31). The one flag it observes is WIP, bit 0 of the status byte the device
returns (10_state R32). -/

namespace Sys2Proof.Machine

/-- `isWriteInProgress`: bit 0 of a status byte, and nothing else of it (42_status_poller R160, R161). -/
def statusBusy (s : Byte) : Bool := s.getLsbD 0

/-- A status byte with bit 0 set to WIP and bits 7:1 those of `other` (20_memory R69, first clause). -/
def statusByte (wip : Bool) (other : Byte) : Byte := (other &&& 0xFE#8) ||| (if wip then 0x01#8 else 0x00#8)

end Sys2Proof.Machine
end

