-- ==== Sys2Proof/Machine/Memory.lean ====
section
/-! DEFINITION. The device array as a list of cells in one canonical form: reading, writing and the form itself. -/

namespace Sys2Proof.Machine

/-- What an address with no listed cell reads as (log 13). The spec gives the array no initial contents (20_memory R73); a state may
list any byte at any address, so a claim about every state is a claim about every contents. DESIGN CHOICE, unsafe only for a claim
about runs from reset. -/
def blankByte : Byte := 0x00#8

/-- The byte at an address (20_memory R67: a total map). -/
def Memory.read : Memory → Nat → Byte
  | [], _ => blankByte
  | (k, b) :: rest, a => if k = a then b else Memory.read rest a

/-- The cells without the one at `a`. -/
def Memory.erase (a : Nat) : Memory → Memory
  | [] => []
  | (k, b) :: rest => if k = a then rest else (k, b) :: Memory.erase a rest

/-- The cells with `b` listed at `a`, in address order. -/
def Memory.insert (a : Nat) (b : Byte) : Memory → Memory
  | [] => [(a, b)]
  | (k, c) :: rest =>
    if a < k then (a, b) :: (k, c) :: rest
    else if a = k then (a, b) :: rest
    else (k, c) :: Memory.insert a b rest

/-- `mem[a] <- b`, keeping the canonical form. -/
def Memory.write (m : Memory) (a : Nat) (b : Byte) : Memory :=
  if b = blankByte then m.erase a else m.insert a b

/-- The cells of `cells` stored one after the other, first to last (20_memory R71). -/
def Memory.writeAll (m : Memory) : List Host.Cell → Memory
  | [] => m
  | (a, b) :: rest => (m.write a b).writeAll rest

/-- Every listed address is above `low`, addresses rise strictly, and no listed byte is the blank one. -/
def Memory.wfAbove : Option Nat → Memory → Bool
  | _, [] => true
  | low, (k, b) :: rest =>
    (match low with | none => true | some l => decide (l < k)) && decide (b ≠ blankByte) && Memory.wfAbove (some k) rest

/-- The canonical form. -/
def Memory.wf (m : Memory) : Bool := Memory.wfAbove none m

end Sys2Proof.Machine
end

