-- ==== Sys2Proof/Machine/Device.lean ====
section
/-! DEFINITION. The reference device (20_memory R66 to R74): what it returns in an exchange, what a transaction does to it, and its own
step. It is environment, not the controller. A device of kind `arbitrary` keeps no state and may return any byte. -/

namespace Sys2Proof.Machine

/-- How far the rules fix the byte returned in an exchange. -/
inductive Reply
  /-- "`v` is any value". -/
  | any
  /-- Bit 0 is WIP, "`v[7:1]` is any value". -/
  | status (wip : Bool)
  /-- A byte of the array. -/
  | stored (b : Byte)
  deriving DecidableEq, Repr

/-- `Sel`: a new transaction, nothing received in it yet (20_memory R67). -/
def Device.select (d : Device) : Device :=
  match d.kind with
  | .reference => { d with frame := [] }
  | .arbitrary => d

/-- One more byte of the frame. -/
def Device.receive (d : Device) (o : Byte) : Device :=
  match d.kind with
  | .reference => { d with frame := d.frame ++ [o] }
  | .arbitrary => d

/-- What the reference device returns when `frame` holds the bytes received so far, the present one last (20_memory R69). -/
def Device.replyTo (c : Config) (d : Device) : List Byte → Reply
  | [o, _] => if o = opcodeRdsr then .status d.wip else .any
  | o :: h :: l :: _ :: more =>
    if o = opcodeRead ∧ d.wip = false ∧ (joinAddr h l).toNat + more.length < c.maxAddress then
      .stored (d.mem.read ((joinAddr h l).toNat + more.length))
    else .any
  | _ => .any

/-- What comes back while the device receives `o`. -/
def Device.reply (c : Config) (d : Device) (o : Byte) : Reply :=
  match d.kind with
  | .reference => d.replyTo c (d.frame ++ [o])
  | .arbitrary => .any

/-- A WRITE frame's condition in 20_memory R70: at least one byte, at most a page, inside the array and inside one page. -/
def writeAccepted (c : Config) (a n : Nat) : Bool :=
  decide (1 ≤ n) && decide (n ≤ c.pageSize) && c.rangeFits a n && c.onePage a n

/-- The (address, byte) pairs of data bytes from address `a` upward (20_memory R70). -/
def cellsFrom (a : Nat) : List Byte → List Host.Cell
  | [] => []
  | b :: rest => (a, b) :: cellsFrom (a + 1) rest

/-- The effect of a WRITE frame on an idle device (20_memory R70, rows 4 to 6). -/
def Device.takeWrite (c : Config) (d : Device) : List Byte → Except Fault Device
  | h :: l :: data =>
    if d.wel = false then .ok d
    else if writeAccepted c (joinAddr h l).toNat data.length then
      .ok { d with pend := cellsFrom (joinAddr h l).toNat data, wip := true }
    else .error .malformedWrite
  | _ => if d.wel = false then .ok d else .error .malformedWrite

/-- The effect of a complete frame (20_memory R70), before the frame is forgotten. A frame with no byte (`Sel`, then `Desel`) has no row
there: that it has no effect and is no fault is the model's DESIGN CHOICE, unsafe (log 31); the controller makes none (40_transport R116). -/
def Device.takeFrame (c : Config) (d : Device) : List Byte → Except Fault Device
  | [] => .ok d
  | o :: rest =>
    if o = opcodeRdsr ∨ o = opcodeRead then .ok d
    else if d.wip then .ok d
    else if o = opcodeWren then (if rest = [] then .ok { d with wel := true } else .error .undefinedFrame)
    else if o = opcodeWrdi then (if rest = [] then .ok { d with wel := false } else .error .undefinedFrame)
    else if o = opcodeWrite then d.takeWrite c rest
    else .error .undefinedFrame

/-- `Desel`: the frame takes effect and "in every case `frame <- []`" (20_memory R70). -/
def Device.deselect (c : Config) (d : Device) : Except Fault Device :=
  match d.kind with
  | .reference =>
    match d.takeFrame c d.frame with
    | .ok d' => .ok { d' with frame := [] }
    | .error f => .error f
  | .arbitrary => .ok d

/-- The device's own step `Complete`, "enabled whenever `wip = 1`" (20_memory R71). Where it is not enabled nothing happens. -/
def Device.complete (d : Device) : Device :=
  match d.kind, d.wip with
  | .reference, true => { d with mem := d.mem.writeAll d.pend, pend := [], wip := false, wel := false }
  | .reference, false => d
  | .arbitrary, _ => d

end Sys2Proof.Machine
end

