-- ==== Sys2Proof/Machine/Ops.lean ====
section
/-! DEFINITION. The operations the instructions share: the draws from the environment, the transport primitives (40_transport R110 to
R113), the buffer accesses (00_scope R12), raising OutOfRange and responding, accepting and refusing a request, and reset. -/

namespace Sys2Proof.Machine

/-- The outcome type of every step. -/
abbrev Result := Host.Outcome State Fault Refusal

/-! ### Ports and predicates -/

/-- `initialized` (10_state R38). -/
def State.initialized (s : State) : Bool := decide (s.phase ≠ .uninit)

/-- `busy` (10_state R38). -/
def State.busy (s : State) : Bool := decide (s.phase ≠ .uninit ∧ s.phase ≠ .idle)

/-- The level on the chip-select line (10_state R34, 00_scope R7). -/
def State.chipSelectLevel (s : State) : Level :=
  if s.csSel then s.config.csActiveLevel else s.config.csActiveLevel.inverse

/-- The numeric spelling of a response (30_encoding R94). -/
def Status.code (c : Config) : Status → Nat
  | .ok => c.statusCodes.ok
  | .outOfRange => c.statusCodes.outOfRange

/-! ### Small state changes -/

/-- `emit e` (00_scope R13). -/
def State.emit (s : State) (e : Event) : State := { s with trace := s.trace ++ [e] }

/-- `pc <- p` (00_scope R11). -/
def State.goto (s : State) (p : Phase) : State := { s with phase := p }

/-- No row's guard holds: "the controller has no step (it waits)" (44_host_operations R198; log 2). -/
def wait (s : State) : Result := .next s

/-! ### Draws from the environment -/

/-- The next byte of "any value": the next scripted reply, or a free value (log 6). -/
def State.anyByte (s : State) : Byte :=
  match s.replies with
  | b :: _ => b
  | [] => Config.freeByte s.draws

/-- The state once that byte is drawn. -/
def State.byteDrawn (s : State) : State :=
  match s.replies with
  | _ :: rest => { s with replies := rest }
  | [] => { s with draws := s.draws + 1 }

/-- How far beyond T_CSD_MIN the next hold lasts (log 7). -/
def State.anyDelay (s : State) : Nat :=
  match s.delays with
  | d :: _ => d
  | [] => Config.freeDelay s.draws

/-- The state once that delay is drawn. -/
def State.delayDrawn (s : State) : State :=
  match s.delays with
  | _ :: rest => { s with delays := rest }
  | [] => { s with draws := s.draws + 1 }

/-! ### The transport primitives -/

/-- `selectDevice()`, event `Sel` (40_transport R110). -/
def selectDevice (s : State) : State :=
  { s with csSel := true, linkEn := true, device := s.device.select, trace := s.trace ++ [.sel] }

/-- The byte received while `o` goes out (40_transport R113, 20_memory R69). -/
def received (s : State) (o : Byte) : Byte :=
  match s.device.reply s.config o with
  | .any => s.anyByte
  | .status wip => statusByte wip s.anyByte
  | .stored b => b

/-- The environment's inputs left after that exchange: a stored byte draws nothing. -/
def exchangeDrawn (s : State) (o : Byte) : State :=
  match s.device.reply s.config o with
  | .any => s.byteDrawn
  | .status _ => s.byteDrawn
  | .stored _ => s

/-- `exchangeByte(o)`, event `Xfer(o, v)` (40_transport R113): the state after it; the byte is `received s o`. -/
def exchange (s : State) (o : Byte) : State :=
  { exchangeDrawn s o with device := s.device.receive o, trace := s.trace ++ [.xfer o (received s o)] }

/-- `deselectDevice()`, first half, event `Desel` (40_transport R111), then on to `p`. -/
def deselectStep (p : Phase) (s : State) : Result :=
  match s.device.deselect s.config with
  | .ok d => .next { s with csSel := false, linkEn := false, device := d, trace := s.trace ++ [.desel], phase := p }
  | .error f => .fault f

/-- How long the next hold lasts: at least T_CSD_MIN (40_transport R112). -/
def holdTime (s : State) : Nat := s.config.tCsdMin + s.anyDelay

/-- `deselectDevice()`, second half, event `Hold(d)` (40_transport R112). -/
def hold (s : State) : State := { s.delayDrawn with trace := s.trace ++ [.hold (holdTime s)] }

/-- A step that selects and goes on to `p`. -/
def selectStep (p : Phase) (s : State) : Result := .next ((selectDevice s).goto p)

/-- A step that sends `o`, discards what it receives (40_transport R114) and goes on to `p`. -/
def sendStep (o : Byte) (p : Phase) (s : State) : Result := .next ((exchange s o).goto p)

/-- A step that holds and goes on to `p`. -/
def holdStep (p : Phase) (s : State) : Result := .next ((hold s).goto p)

/-! ### The host buffers -/

/-- `MemRead(SRC, k, 1)`, where the buffer has a byte `k` (00_scope R12). -/
def memReadSrc (s : State) (k : Nat) : Option Byte := s.src[k]?

/-- `MemWrite(DST, k, 1, v)`, where the buffer has a byte `k` (00_scope R12). -/
def memWriteDst (s : State) (k : Nat) (v : Byte) : Option (List Byte) :=
  if k < s.dst.length then some (s.dst.set k v) else none

/-! ### Requests -/

/-- The request on the port leaves it. -/
def leavePort (s : State) : State := { s with requests := s.requests.tail }

/-- A request is taken: `x[op] <- op`, `x[A] <- address`, `x[N] <- count`, `Req`, on to S_CHECK (44_host_operations R192). It leaves
the port. -/
def acceptRequest (op : HostOp) (address count : Nat) (s : State) : State :=
  { s with
    op := op, A := address, N := count, requests := s.requests.tail,
    trace := s.trace ++ [.req op address count], phase := .check }

/-- A request is refused: "not accepted, no event is emitted, the phase does not change" (70_reset_and_hazards R256, 30_encoding
R95). The host takes it back (log 3). -/
def refuseRequest (s : State) : State := leavePort s

/-! ### The one exception, and the end of an operation -/

/-- `out_of_range(A, N)`, on the exact sum (44_host_operations R191). -/
def outOfRange (c : Config) (a n : Nat) : Bool := decide (a + n > c.maxAddress) || decide (a ≥ c.maxAddress)

/-- `raise OutOfRange()`: `x[rstat] <- OutOfRange`, on to S_RESP, nothing else (60_exceptions R221). -/
def raiseOutOfRange (s : State) : State := { s with rstat := .outOfRange, phase := .resp }

/-- `Resp(x[rstat])`, back to S_IDLE (44_host_operations R197), the same after OutOfRange as after Ok (60_exceptions R229). -/
def respond (s : State) : State := { s with trace := s.trace ++ [.resp s.rstat], phase := .idle }

/-! ### Reset -/

/-- The controller's part of a reset: the state of 70_reset_and_hazards R250, with the trace empty. -/
def resetController (s : State) : State :=
  { s with
    phase := .uninit, csSel := false, linkEn := false, op := .read, A := 0, N := 0, cur := 0, n := 0, i := 0, sr := 0#8,
    rstat := .ok, trace := [] }

/-- The reset input (70_reset_and_hazards R250 to R252). In S_UNINIT and S_IDLE it is harmless and the device goes on; in a busy
phase the fault AbortedTransaction is recorded and the device is in "an undefined command state", so it may be anything (log 9). -/
def reset (s : State) : State :=
  if s.busy then
    { resetController s with device := { s.device with kind := .arbitrary }, recordedFault := some .abortedTransaction }
  else resetController s

end Sys2Proof.Machine
end

