-- ==== Sys2Proof/Machine/Operands.lean ====
section
/-! DEFINITION. The operands the sequencer forms from its registers: the address field, the chunk length, the data bytes still to be
sent, the frame in flight, and the latched request. -/

namespace Sys2Proof.Machine

/-- `zext_16(a)`, the address field (30_encoding R83). -/
def addressField (a : Nat) : Addr := BitVec.ofNat 16 a

/-- "Distance to the end of the current page": `PAGE_SIZE - (cur mod PAGE_SIZE)` (20_memory R52). -/
def toPageEnd (c : Config) (cur : Nat) : Nat := c.pageSize - cur % c.pageSize

/-- The chunk length at `cur` of a request that ends at `stop` (43_page_write_splitter R171). -/
def chunkLength (c : Config) (cur stop : Nat) : Nat := min (stop - cur) (toPageEnd c cur)

/-- How many data bytes of the WRITE transaction are behind it: `i`, once `i` has been set to 0 at S_WR_AL (44_host_operations R198). -/
def dataSent (s : State) : Nat :=
  match s.phase with
  | .wrData => s.i
  | .wrDesel => s.i
  | .wrHold => s.i
  | _ => 0

/-- The data bytes of the WRITE transaction still to be sent: `MemRead(SRC, cur - A + k, 1)` for `k` from `dataSent` up to `n`
(20_memory R77, 41_command_codec R134), as far as the buffer goes. -/
def pendingData (s : State) : List Byte := (s.src.drop (s.cur - s.A + dataSent s)).take (s.n - dataSent s)

/-- The response positions of the READ transaction still to come: under Burst the rest of the request, under PerByte one
(41_command_codec R133). -/
def pendingPositions (s : State) : Nat :=
  match s.config.readFraming with
  | .burst => s.N - s.i
  | .perByte => 1

/-- The frame of the transaction the sequencer is in, its data positions being those still to come (log 17). READ's address is
`x[A] + x[i]`, WRITE's is `x[cur]` (30_encoding R83). -/
def frameInFlight (s : State) : Option (List Byte) :=
  match s.phase with
  | .pollSel | .pollOp | .pollDummy | .pollDesel | .pollHold => some [opcodeRdsr, s.config.dummyByte]
  | .rdSel | .rdOp | .rdAh | .rdAl | .rdData | .rdDesel | .rdHold =>
    some (readFrame s.config (addressField (s.A + s.i)) (pendingPositions s))
  | .wrenSel | .wrenOp | .wrenDesel | .wrenHold => some [opcodeWren]
  | .wrSel | .wrOp | .wrAh | .wrAl | .wrData | .wrDesel | .wrHold => some (writeFrame (addressField s.cur) (pendingData s))
  | .wrdiSel | .wrdiOp | .wrdiDesel | .wrdiHold => some [opcodeWrdi]
  | .uninit | .idle | .check | .split | .pollTest | .resp => none

/-- The host operation being carried out, from the request latches and its buffer (10_state R24). -/
def latchedOperation (s : State) : Instr :=
  match s.op with
  | .read => .hostRead s.A s.N s.dst
  | .write => .hostWrite s.A s.N s.src

end Sys2Proof.Machine
end

