-- ==== Sys2Proof/Machine/Sequencer.lean ====
section
/-! DEFINITION. The silent rows of the transition table and the response (44_host_operations R198): S_CHECK, S_SPLIT, S_POLL_TEST,
S_RESP. They belong to the host operation being carried out. -/

namespace Sys2Proof.Machine

/-- S_CHECK: the range check, before any bus event (44_host_operations R191, R198). -/
def checkRow (s : State) : Result :=
  if outOfRange s.config s.A s.N then .next (raiseOutOfRange s)
  else
    match s.op with
    | .read => .next { s with rstat := .ok, phase := .pollSel }
    | .write => .next { s with rstat := .ok, cur := s.A, phase := .split }

/-- S_SPLIT: the loop test, made before the first pass, and the chunk length (43_page_write_splitter R173). -/
def splitRow (s : State) : Result :=
  if s.cur = s.A + s.N then .next (s.goto .resp)
  else .next { s with n := chunkLength s.config s.cur (s.A + s.N), phase := .pollSel }

/-- S_POLL_TEST: poll again, or on to what the poll was for (42_status_poller R162, 44_host_operations R198). -/
def pollTestRow (s : State) : Result :=
  if statusBusy s.sr then .next (s.goto .pollSel)
  else
    match s.op with
    | .write => .next (s.goto .wrenSel)
    | .read => if s.N = 0 then .next (s.goto .resp) else .next { s with i := 0, phase := .rdSel }

/-- S_RESP (44_host_operations R197). -/
def respRow (s : State) : Result := .next (respond s)

end Sys2Proof.Machine
end

