-- ==== Sys2Proof/Machine/Codec.lean ====
section
/-! DEFINITION. The five wire commands (41_command_codec R130 to R134). Each meaning is one step of the command's transaction, the one
of the phase the sequencer is in; in a phase of another command the meaning is refused, as nothing can invoke it there
(30_encoding R97). -/

namespace Sys2Proof.Machine

/-- WREN: `T[06]` (41_command_codec R130). -/
def execWren (s : State) : Result :=
  match s.phase with
  | .wrenSel => selectStep .wrenOp s
  | .wrenOp => sendStep opcodeWren .wrenDesel s
  | .wrenDesel => deselectStep .wrenHold s
  | .wrenHold => holdStep .wrSel s
  | _ => .refused .notInvocable

/-- WRDI: `T[04]`; its hold also advances `cur` by `n` (41_command_codec R131, 43_page_write_splitter R173). -/
def execWrdi (s : State) : Result :=
  match s.phase with
  | .wrdiSel => selectStep .wrdiOp s
  | .wrdiOp => sendStep opcodeWrdi .wrdiDesel s
  | .wrdiDesel => deselectStep .wrdiHold s
  | .wrdiHold => .next { hold s with cur := s.cur + s.n, phase := .split }
  | _ => .refused .notInvocable

/-- RDSR: `T[05 dd>s]`, `x[sr] <- s` with the byte of the second exchange (41_command_codec R132). -/
def execRdsr (s : State) : Result :=
  match s.phase with
  | .pollSel => selectStep .pollOp s
  | .pollOp => sendStep opcodeRdsr .pollDummy s
  | .pollDummy =>
    .next { exchange s s.config.dummyByte with sr := received s s.config.dummyByte, phase := .pollDesel }
  | .pollDesel => deselectStep .pollHold s
  | .pollHold => holdStep .pollTest s
  | _ => .refused .notInvocable

/-- S_RD_DATA with `m` positions to come, this one among them: a byte in, to `DST[i]`, `i <- i + 1` (41_command_codec R133). -/
def readDataRow (m : Nat) (s : State) : Result :=
  if m = 0 then wait s
  else
    match memWriteDst s s.i (received s s.config.dummyByte) with
    | none => .fault .bufferOutOfBounds
    | some dst =>
      .next { exchange s s.config.dummyByte with dst := dst, i := s.i + 1, phase := if 1 < m then .rdData else .rdDesel }

/-- S_RD_HOLD: another transaction while bytes are left (PerByte), else the response (44_host_operations R198). -/
def readHoldRow (s : State) : Result :=
  if s.i < s.N then holdStep .rdSel s
  else if s.i = s.N then holdStep .resp s
  else wait s

/-- READ: `T[03 hi lo dd>v0 ..]` (41_command_codec R133). -/
def execRead (a : Addr) (m : Nat) (s : State) : Result :=
  match s.phase with
  | .rdSel => selectStep .rdOp s
  | .rdOp => sendStep opcodeRead .rdAh s
  | .rdAh => sendStep (hi8 a) .rdAl s
  | .rdAl => sendStep (lo8 a) .rdData s
  | .rdData => readDataRow m s
  | .rdDesel => deselectStep .rdHold s
  | .rdHold => readHoldRow s
  | _ => .refused .notInvocable

/-- S_WR_DATA with the data bytes to come: one byte out, what comes back discarded, `i <- i + 1` (41_command_codec R134). Where the
source buffer has no byte for this position the access has no target (93 U21). -/
def writeDataRow (data : List Byte) (s : State) : Result :=
  if s.i < s.n then
    match data with
    | [] => .fault .bufferOutOfBounds
    | b :: _ => .next { exchange s b with i := s.i + 1, phase := if s.i + 1 < s.n then .wrData else .wrDesel }
  else wait s

/-- WRITE: `T[02 hi lo b0 ..]` (41_command_codec R134). -/
def execWrite (a : Addr) (data : List Byte) (s : State) : Result :=
  match s.phase with
  | .wrSel => selectStep .wrOp s
  | .wrOp => sendStep opcodeWrite .wrAh s
  | .wrAh => sendStep (hi8 a) .wrAl s
  | .wrAl => .next { exchange s (lo8 a) with i := 0, phase := .wrData }
  | .wrData => writeDataRow data s
  | .wrDesel => deselectStep .wrHold s
  | .wrHold => holdStep .wrdiSel s
  | _ => .refused .notInvocable

end Sys2Proof.Machine
end

