-- ==== Sys2Proof/Machine/HostOps.lean ====
section
/-! DEFINITION. The three host operations (44_host_operations R190 to R194, R197): acceptance, refusal, and the steps of the operation
that belong to no wire command. In a phase of a wire command "a presented request simply waits" (70_reset_and_hazards R259). -/

namespace Sys2Proof.Machine

/-- INIT (44_host_operations R190): `Init`, no bus event, no response; ready from S_UNINIT, and nothing changes in S_IDLE. -/
def execInit (s : State) : Result :=
  match s.phase with
  | .uninit => .next { (leavePort s).emit .init with csSel := false, linkEn := false, phase := .idle }
  | .idle => .next ((leavePort s).emit .init)
  | _ => wait s

/-- Host `read` (44_host_operations R193): refused before INIT (70_reset_and_hazards R256), accepted in S_IDLE with `destination` as
the buffer, then the steps of the operation. -/
def execHostRead (address count : Nat) (destination : List Byte) (s : State) : Result :=
  match s.phase with
  | .uninit => .next (refuseRequest s)
  | .idle => .next { acceptRequest .read address count s with dst := destination }
  | .check => checkRow s
  | .split => splitRow s
  | .pollTest => pollTestRow s
  | .resp => respRow s
  | _ => wait s

/-- Host `write` (44_host_operations R194): refused before INIT, accepted in S_IDLE with `source` as the buffer, then the steps of
the operation. -/
def execHostWrite (address count : Nat) (source : List Byte) (s : State) : Result :=
  match s.phase with
  | .uninit => .next (refuseRequest s)
  | .idle => .next { acceptRequest .write address count s with src := source }
  | .check => checkRow s
  | .split => splitRow s
  | .pollTest => pollTestRow s
  | .resp => respRow s
  | _ => wait s

end Sys2Proof.Machine
end

