-- ==== Sys2Proof/Machine/Dispatch.lean ====
section
/-! DEFINITION. One arm per constructor of Instr. -/

namespace Sys2Proof.Machine

def exec (i : Instr) (s : State) : Host.Outcome State Fault Refusal :=
  match i with
  | .wren => Sys2Proof.Machine.execWren s
  | .wrdi => Sys2Proof.Machine.execWrdi s
  | .rdsr => Sys2Proof.Machine.execRdsr s
  | .read a m => Sys2Proof.Machine.execRead a m s
  | .write a data => Sys2Proof.Machine.execWrite a data s
  | .init => Sys2Proof.Machine.execInit s
  | .hostRead address count destination => Sys2Proof.Machine.execHostRead address count destination s
  | .hostWrite address count source => Sys2Proof.Machine.execHostWrite address count source s

end Sys2Proof.Machine
end

