-- ==== Sys2Proof/Machine/Agents.lean ====
section
/-! DEFINITION. What the controller runs next, the moves of the other agents, and how a table word is placed where the next step runs
it. -/

namespace Sys2Proof.Machine

/-- What the controller has before it. -/
inductive Pending
  /-- An instruction to run. -/
  | run (i : Instr)
  /-- A request on the port that decodes to no instruction. -/
  | refuse
  /-- Nothing: no request. -/
  | nothing
  deriving DecidableEq, Repr

/-- The request on the port, decoded (30_encoding R90 to R95). -/
def decodePort (s : State) : Pending :=
  match s.requests with
  | [] => .nothing
  | r :: _ =>
    match decode s.config (.request r) with
    | .ok i => .run i
    | .error _ => .refuse

/-- The controller's fetch: in S_UNINIT and S_IDLE the request port (70_reset_and_hazards R259); inside a transaction the command
whose frame is in flight; in the silent phases and S_RESP the latched operation. A frame in flight always parses. -/
def fetch (s : State) : Pending :=
  match s.phase with
  | .uninit => decodePort s
  | .idle => decodePort s
  | _ =>
    match frameInFlight s with
    | none => .run (latchedOperation s)
    | some bytes =>
      match parseFrame bytes with
      | .ok i => .run i
      | .error _ => .nothing

/-- The controller's step: one row of 44_host_operations R198. -/
def controllerStep (s : State) : Result :=
  match fetch s with
  | .run i => exec i s
  | .refuse => .next (refuseRequest s)
  | .nothing => wait s

/-- One agent's move (00_scope R18): the controller, the device's `Complete` (20_memory R71), reset (70_reset_and_hazards R250), the
host presenting a request (10_state R34) or storing to the source buffer (93 U21). -/
def takeMove (m : Move) (s : State) : Result :=
  match m with
  | .controller => controllerStep s
  | .complete => .next { s with device := s.device.complete }
  | .reset => .next (reset s)
  | .present r => .next { s with requests := s.requests ++ [r] }
  | .hostStore k b => .next { s with src := s.src.set k b }

/-- The next agent of the schedule moves; with nothing scheduled the controller does (log 5). -/
def scheduledStep (s : State) : Result :=
  match s.schedule with
  | [] => controllerStep s
  | m :: rest => takeMove m { s with schedule := rest }

/-- `s` with an instruction where the next step finds it: a host operation on the request port of a controller that takes it, a wire
command at the first phase of its transaction with the registers and buffers its frame is formed from. -/
def placeInstr (i : Instr) (r : Request) (s : State) : State :=
  match i with
  | .init => { s with requests := [r], schedule := [], phase := if s.busy then .idle else s.phase }
  | .hostRead _ _ _ => { s with requests := [r], schedule := [], phase := .idle }
  | .hostWrite _ _ _ => { s with requests := [r], schedule := [], phase := .idle }
  | .wren => { s with schedule := [], phase := .wrenSel, op := .write }
  | .wrdi => { s with schedule := [], phase := .wrdiSel, op := .write }
  | .rdsr => { s with schedule := [], phase := .pollSel }
  | .read a m =>
    { s with
      config := { s.config with readFraming := if 1 < m then .burst else s.config.readFraming }
      schedule := [], phase := .rdSel, op := .read, A := a.toNat, N := m, i := 0, dst := List.replicate m 0#8 }
  | .write a data =>
    { s with
      schedule := [], phase := .wrSel, op := .write, A := a.toNat, N := data.length, cur := a.toNat, n := data.length,
      src := data }

/-- `s` with an encoded form placed; one that decodes to nothing is presented on the port if it is a request, and cannot be in
flight if it is a frame. -/
def placeEncoded (e : Encoded) (s : State) : State :=
  match e with
  | .request r =>
    match decode s.config (.request r) with
    | .ok i => placeInstr i r s
    | .error _ => { s with requests := [r], schedule := [] }
  | .frame bytes =>
    match decode s.config (.frame bytes) with
    | .ok i => placeInstr i ⟨opInit, 0, 0, []⟩ s
    | .error _ => s

end Sys2Proof.Machine
end

