-- ==== Sys2Proof/Machine/Step.lean ====
section
/-! DEFINITION. The machine's step, and a table word placed where the step fetches. -/

namespace Sys2Proof.Machine

/-- One step of the machine: one move of one agent, the controller's being one row of 44_host_operations R198. -/
def step (s : State) : Host.Outcome State Fault Refusal := scheduledStep s

/-- `s` with the word's instruction where `step` finds its next one (log 20). -/
def State.withFetchWord (s : State) (nbits w : Nat) : State := placeEncoded (tableEncoded nbits w) s

end Sys2Proof.Machine
end

