-- ==== Sys2Proof/Machine/Splitter.lean ====
section
/-! DEFINITION. The page write splitter as the recursion of 43_page_write_splitter R171. The sequencer runs it one chunk at a time
(S_SPLIT, S_WRDI_HOLD); this is the whole list. -/

namespace Sys2Proof.Machine

/-- `chunks(cur, end)` of 43_page_write_splitter R171, given fuel; a chunk takes at least one byte, so `end - cur` is enough. -/
def chunksFrom (c : Config) : Nat → Nat → Nat → List (Nat × Nat)
  | 0, _, _ => []
  | fuel + 1, cur, stop =>
    if cur = stop then []
    else (cur, chunkLength c cur stop) :: chunksFrom c fuel (cur + chunkLength c cur stop) stop

/-- `chunks_of(A, N)` (43_page_write_splitter R171). -/
def chunksOf (c : Config) (a n : Nat) : List (Nat × Nat) := chunksFrom c n a (a + n)

end Sys2Proof.Machine
end

