-- ==== Sys2Proof/Machine/Traces.lean ====
section
/-! DEFINITION. The traces of the operations as sets of event sequences, without the sequencer (44_host_operations R195): "the
normative statement of order and content". A byte or duration the environment supplies is existentially quantified. -/

namespace Sys2Proof.Machine

/-- `tx(os, vs)` with hold duration `d` (44_host_operations R195). -/
def tx (sent got : List Byte) (d : Nat) : List Event :=
  .sel :: (List.zipWith .xfer sent got ++ [.desel, .hold d])

/-- `tr` is one transaction that sends `sent`, whatever comes back, with a hold of at least T_CSD_MIN. -/
def IsTx (c : Config) (sent : List Byte) (tr : List Event) : Prop :=
  ∃ got d, got.length = sent.length ∧ c.tCsdMin ≤ d ∧ tr = tx sent got d

/-- `Rdsr(s)` (44_host_operations R195). -/
def IsRdsr (c : Config) (s : Byte) (tr : List Event) : Prop :=
  ∃ v d, c.tCsdMin ≤ d ∧ tr = tx [opcodeRdsr, c.dummyByte] [v, s] d

/-- The set `Idle` (44_host_operations R195): polls that see bit 0 set, then one that sees it clear. -/
inductive IsIdle (c : Config) : List Event → Prop
  | seen (s : Byte) (tr : List Event) : IsRdsr c s tr → statusBusy s = false → IsIdle c tr
  | again (s : Byte) (tr rest : List Event) : IsRdsr c s tr → statusBusy s = true → IsIdle c rest → IsIdle c (tr ++ rest)

/-- `Page(a, b)` (44_host_operations R195): poll, WREN, WRITE, WRDI. -/
def IsPage (c : Config) (a : Nat) (b : List Byte) (tr : List Event) : Prop :=
  ∃ idle wren write wrdi, IsIdle c idle ∧ IsTx c [opcodeWren] wren ∧ IsTx c (writeFrame (addressField a) b) write ∧
    IsTx c [opcodeWrdi] wrdi ∧ tr = idle ++ wren ++ write ++ wrdi

/-- The pages of a list of chunks of a request at `A`, each with its slice of the source (20_memory R77). -/
inductive IsPages (c : Config) (A : Nat) (src : List Byte) : List (Nat × Nat) → List Event → Prop
  | none : IsPages c A src [] []
  | page (a n : Nat) (chunks : List (Nat × Nat)) (tr rest : List Event) :
      IsPage c a ((src.drop (a - A)).take n) tr → IsPages c A src chunks rest → IsPages c A src ((a, n) :: chunks) (tr ++ rest)

/-- `Read(a, m, v)` (44_host_operations R195). -/
def IsRead (c : Config) (a : Nat) (v : List Byte) (tr : List Event) : Prop :=
  ∃ g0 g1 g2 d, c.tCsdMin ≤ d ∧ tr = tx (readFrame c (addressField a) v.length) (g0 :: g1 :: g2 :: v) d

/-- The one-byte READ transactions of PerByte framing, ascending from `a`. -/
inductive IsReads (c : Config) : Nat → List Byte → List Event → Prop
  | none (a : Nat) : IsReads c a [] []
  | byte (a : Nat) (v : Byte) (vs : List Byte) (tr rest : List Event) :
      IsRead c a [v] tr → IsReads c (a + 1) vs rest → IsReads c a (v :: vs) (tr ++ rest)

/-- The READ transactions of a host read that delivers `v`: none for `N = 0`, one under Burst, one a byte under PerByte. -/
def IsReadPart (c : Config) (a : Nat) (v : List Byte) (tr : List Event) : Prop :=
  match c.readFraming with
  | .burst => if v = [] then tr = [] else IsRead c a v tr
  | .perByte => IsReads c a v tr

/-- `traces(read(A, N))` with `DST = v` (44_host_operations R195). -/
def IsReadTrace (c : Config) (A N : Nat) (v : List Byte) (tr : List Event) : Prop :=
  if outOfRange c A N then tr = [.req .read A N, .resp .outOfRange]
  else ∃ idle part, IsIdle c idle ∧ v.length = N ∧ IsReadPart c A v part ∧
    tr = .req .read A N :: (idle ++ part ++ [.resp .ok])

/-- `traces(write(A, N, SRC))` (44_host_operations R195). -/
def IsWriteTrace (c : Config) (A N : Nat) (src : List Byte) (tr : List Event) : Prop :=
  if outOfRange c A N then tr = [.req .write A N, .resp .outOfRange]
  else ∃ pages, IsPages c A src (chunksOf c A N) pages ∧ tr = .req .write A N :: (pages ++ [.resp .ok])

end Sys2Proof.Machine
end

