-- ==== Sys2Proof/Safety.lean ====
section
/-! DEFINITION. What counts as a safe run: a monitor that reads the bus trace and stops at the first event that breaks 44_host_operations
R201, the invariants of the registers, the lines, the bus and the reference device, the premises of liveness, and a good final state. -/

namespace Sys2Proof.Machine

/-! ### The monitor of the bus trace -/

/-- A finished transaction: the bytes sent, and the byte that came back with the last of them. -/
structure Transaction where
  sent : List Byte
  last : Byte
  deriving DecidableEq, Repr

/-- Where a trace has got to. -/
inductive BusState
  /-- No operation is running. -/
  | between
  /-- In an operation, no transaction open; the transaction before, if the operation has made one. -/
  | operation (before : Option Transaction)
  /-- In a transaction: what was before it, the bytes sent, the last byte received. -/
  | selected (before : Option Transaction) (sent : List Byte) (last : Byte)
  /-- After `Desel`, the hold still to come. -/
  | released (t : Transaction)
  deriving DecidableEq, Repr

/-- A transaction with this opcode. -/
def Transaction.has (o : Byte) (t : Transaction) : Bool := decide (t.sent.head? = some o)

/-- A poll that saw bit 0 clear. -/
def Transaction.isIdlePoll (t : Transaction) : Bool := t.has opcodeRdsr && !statusBusy t.last

/-- A poll that saw bit 0 set. -/
def Transaction.isBusyPoll (t : Transaction) : Bool := t.has opcodeRdsr && statusBusy t.last

/-- Opcode set, lengths, range, page and dummy bytes of a complete frame (44_host_operations R201 b, c, f, g). -/
def frameLegal (c : Config) : List Byte → Bool
  | [] => false
  | [o] => decide (o = opcodeWren) || decide (o = opcodeWrdi)
  | [o, d] => decide (o = opcodeRdsr) && decide (d = c.dummyByte)
  | o :: h :: l :: data =>
    (decide (o = opcodeRead) && decide (1 ≤ data.length) && data.all (fun d => decide (d = c.dummyByte)) &&
      c.rangeFits (joinAddr h l).toNat data.length) ||
    (decide (o = opcodeWrite) && writeAccepted c (joinAddr h l).toNat data.length)

/-- Which transaction may follow which inside an operation: the bracketing of 41_command_codec R136 and the gating of
44_host_operations R201 d, e. -/
def mayFollow (before : Option Transaction) (o : Byte) : Bool :=
  match before with
  | none => decide (o = opcodeRdsr)
  | some t =>
    (decide (o = opcodeRdsr) && (t.isBusyPoll || t.has opcodeWrdi)) ||
    (decide (o = opcodeRead) && (t.isIdlePoll || t.has opcodeRead)) ||
    (decide (o = opcodeWren) && t.isIdlePoll) ||
    (decide (o = opcodeWrite) && t.has opcodeWren) ||
    (decide (o = opcodeWrdi) && t.has opcodeWrite)

/-- Which response may end an operation after which transaction: OutOfRange only with no transaction at all (44_host_operations
R201 h), Ok after none (a write of no bytes), a WRDI, a READ, or an idle poll (a read of no bytes). -/
def mayRespond (before : Option Transaction) : Status → Bool
  | .outOfRange => decide (before = none)
  | .ok =>
    match before with
    | none => true
    | some t => t.has opcodeWrdi || t.has opcodeRead || t.isIdlePoll

/-- One event read by the monitor; `none` where it breaks a rule (40_transport R116, R117; 44_host_operations R201). -/
def busEvent (c : Config) : BusState → Event → Option BusState
  | .between, .init => some .between
  | .between, .req _ _ _ => some (.operation none)
  | .operation before, .sel => some (.selected before [] 0x00#8)
  | .operation before, .resp r => if mayRespond before r then some .between else none
  | .selected before sent _, .xfer o v => some (.selected before (sent ++ [o]) v)
  | .selected before sent last, .desel =>
    match sent with
    | [] => none
    | o :: _ => if frameLegal c sent && mayFollow before o then some (.released ⟨sent, last⟩) else none
  | .released t, .hold d => if c.tCsdMin ≤ d then some (.operation (some t)) else none
  | _, _ => none

/-- A whole trace read by the monitor. -/
def busScan (c : Config) (tr : List Event) : Option BusState := tr.foldlM (busEvent c) .between

/-! ### Invariants -/

/-- The phases with chip-select active: from after `Sel` to `Desel` (10_state R37). -/
def Phase.selected : Phase → Bool
  | .pollOp | .pollDummy | .pollDesel => true
  | .rdOp | .rdAh | .rdAl | .rdData | .rdDesel => true
  | .wrenOp | .wrenDesel => true
  | .wrOp | .wrAh | .wrAl | .wrData | .wrDesel => true
  | .wrdiOp | .wrdiDesel => true
  | .uninit | .idle | .check | .split | .pollSel | .pollHold | .pollTest | .rdSel | .rdHold | .wrenSel | .wrenHold => false
  | .wrSel | .wrHold | .wrdiSel | .wrdiHold | .resp => false

/-- The line invariant (10_state R37). -/
def LinesInv (s : State) : Prop := s.linkEn = s.csSel ∧ s.csSel = s.phase.selected

/-- "A request is *in range* iff `A < MAX_ADDRESS` and `A + N <= MAX_ADDRESS`" (44_host_operations R191), and it was found so. -/
def InRange (s : State) : Prop := s.A < s.config.maxAddress ∧ s.A + s.N ≤ s.config.maxAddress ∧ s.rstat = .ok

/-- The current chunk `[cur, cur + n)` lies in the request and ends no later than its page (43_page_write_splitter R172, R175, R176). -/
def ChunkInv (s : State) : Prop :=
  s.op = .write ∧ s.A ≤ s.cur ∧ 1 ≤ s.n ∧ s.n ≤ toPageEnd s.config s.cur ∧ s.cur + s.n ≤ s.A + s.N

/-- What the working registers hold in each phase (10_state R25 to R27). -/
def PhaseInv (s : State) : Prop :=
  match s.phase with
  | .uninit | .idle | .check => True
  | .resp => s.rstat = .outOfRange ↔ outOfRange s.config s.A s.N = true
  | .split => InRange s ∧ s.op = .write ∧ s.A ≤ s.cur ∧ s.cur ≤ s.A + s.N
  | .pollSel | .pollOp | .pollDummy | .pollDesel | .pollHold | .pollTest => InRange s ∧ (s.op = .write → ChunkInv s)
  | .rdSel | .rdOp | .rdAh | .rdAl =>
    InRange s ∧ s.op = .read ∧ s.i < s.N ∧ (s.config.readFraming = .burst → s.i = 0)
  | .rdData => InRange s ∧ s.op = .read ∧ s.i < s.N
  | .rdDesel | .rdHold =>
    InRange s ∧ s.op = .read ∧ 1 ≤ s.i ∧ s.i ≤ s.N ∧ (s.config.readFraming = .burst → s.i = s.N)
  | .wrenSel | .wrenOp | .wrenDesel | .wrenHold | .wrSel | .wrOp | .wrAh | .wrAl => InRange s ∧ ChunkInv s
  | .wrData => InRange s ∧ ChunkInv s ∧ s.i < s.n
  | .wrDesel | .wrHold | .wrdiSel | .wrdiOp | .wrdiDesel | .wrdiHold => InRange s ∧ ChunkInv s ∧ s.i = s.n

/-- The register invariant: the request latches are W bits wide (10_state R24) and the working registers are in their bounds. -/
def RegisterInv (s : State) : Prop :=
  s.A < 2 ^ s.config.operandWidth ∧ s.N < 2 ^ s.config.operandWidth ∧ PhaseInv s

/-- The address READ's frame holds once its address bytes are out: `A` under Burst, the byte's own under PerByte. -/
def readAddress (s : State) : Nat :=
  match s.config.readFraming with
  | .burst => s.A
  | .perByte => s.A + s.i

/-- How many data positions of READ's frame are behind it in S_RD_DATA. -/
def positionsDone (s : State) : Nat :=
  match s.config.readFraming with
  | .burst => s.i
  | .perByte => 0

/-- The frame of the READ transaction just completed, `i` having gone past its last byte. -/
def readFrameDone (s : State) : List Byte :=
  match s.config.readFraming with
  | .burst => readFrame s.config (addressField s.A) s.N
  | .perByte => readFrame s.config (addressField (s.A + (s.i - 1))) 1

/-- The bus trace has reached the point the phase says it has. -/
def BusAt (s : State) (b : BusState) : Prop :=
  match s.phase with
  | .uninit | .idle => b = .between
  | .check => b = .operation none
  | .split => ∃ t, b = .operation t ∧ (t = none ∨ ∃ u, t = some u ∧ u.has opcodeWrdi = true)
  | .pollSel => ∃ t, b = .operation t ∧ mayFollow t opcodeRdsr = true
  | .pollOp => ∃ t v, b = .selected t [] v ∧ mayFollow t opcodeRdsr = true
  | .pollDummy => ∃ t v, b = .selected t [opcodeRdsr] v ∧ mayFollow t opcodeRdsr = true
  | .pollDesel => ∃ t, b = .selected t [opcodeRdsr, s.config.dummyByte] s.sr ∧ mayFollow t opcodeRdsr = true
  | .pollHold => b = .released ⟨[opcodeRdsr, s.config.dummyByte], s.sr⟩
  | .pollTest => b = .operation (some ⟨[opcodeRdsr, s.config.dummyByte], s.sr⟩)
  | .rdSel => ∃ t, b = .operation t ∧ mayFollow t opcodeRead = true
  | .rdOp => ∃ t v, b = .selected t [] v ∧ mayFollow t opcodeRead = true
  | .rdAh => ∃ t v, b = .selected t [opcodeRead] v ∧ mayFollow t opcodeRead = true
  | .rdAl => ∃ t v, b = .selected t [opcodeRead, hi8 (addressField (s.A + s.i))] v ∧ mayFollow t opcodeRead = true
  | .rdData =>
    ∃ t v, b = .selected t (readFrame s.config (addressField (readAddress s)) (positionsDone s)) v ∧
      mayFollow t opcodeRead = true
  | .rdDesel => ∃ t v, b = .selected t (readFrameDone s) v ∧ mayFollow t opcodeRead = true
  | .rdHold => ∃ t, b = .released t ∧ t.has opcodeRead = true
  | .wrenSel => ∃ t, b = .operation t ∧ mayFollow t opcodeWren = true
  | .wrenOp => ∃ t v, b = .selected t [] v ∧ mayFollow t opcodeWren = true
  | .wrenDesel => ∃ t v, b = .selected t [opcodeWren] v ∧ mayFollow t opcodeWren = true
  | .wrenHold => ∃ t, b = .released t ∧ t.has opcodeWren = true
  | .wrSel => ∃ t, b = .operation t ∧ mayFollow t opcodeWrite = true
  | .wrOp => ∃ t v, b = .selected t [] v ∧ mayFollow t opcodeWrite = true
  | .wrAh => ∃ t v, b = .selected t [opcodeWrite] v ∧ mayFollow t opcodeWrite = true
  | .wrAl => ∃ t v, b = .selected t [opcodeWrite, hi8 (addressField s.cur)] v ∧ mayFollow t opcodeWrite = true
  | .wrData | .wrDesel =>
    ∃ t v data, b = .selected t (writeFrame (addressField s.cur) data) v ∧ data.length = s.i ∧
      mayFollow t opcodeWrite = true
  | .wrHold => ∃ t, b = .released t ∧ t.has opcodeWrite = true
  | .wrdiSel => ∃ t, b = .operation t ∧ mayFollow t opcodeWrdi = true
  | .wrdiOp => ∃ t v, b = .selected t [] v ∧ mayFollow t opcodeWrdi = true
  | .wrdiDesel => ∃ t v, b = .selected t [opcodeWrdi] v ∧ mayFollow t opcodeWrdi = true
  | .wrdiHold => ∃ t, b = .released t ∧ t.has opcodeWrdi = true
  | .resp => ∃ t, b = .operation t ∧ mayRespond t s.rstat = true

/-- The bus invariant: the trace breaks no rule of the monitor, and is where the phase says. -/
def BusInv (s : State) : Prop := ∃ b, busScan s.config s.trace = some b ∧ BusAt s b

/-- Every cell lies in the address space (20_memory R51). -/
def cellsInSpace (c : Config) (m : List Host.Cell) : Prop := ∀ x ∈ m, x.1 < c.maxAddress

/-- The array is in canonical form and, with the data being committed, inside the address space. -/
def ArrayInv (s : State) : Prop :=
  s.device.mem.wf = true ∧ cellsInSpace s.config s.device.mem ∧ cellsInSpace s.config s.device.pend

/-- The bytes sent in the transaction that is open. -/
def BusState.sent : BusState → List Byte
  | .selected _ sent _ => sent
  | .between => []
  | .operation _ => []
  | .released _ => []

/-- The phases in which the last poll saw WIP clear and no WRITE has been obeyed since (20_memory R71). -/
def Phase.afterIdlePoll : Phase → Bool
  | .rdSel | .rdOp | .rdAh | .rdAl | .rdData | .rdDesel | .rdHold => true
  | .wrenSel | .wrenOp | .wrenDesel | .wrenHold | .wrSel | .wrOp | .wrAh | .wrAl | .wrData | .wrDesel => true
  | _ => false

/-- The phases in which the WREN of the chunk has been obeyed and its WRITE has not ended. -/
def Phase.latchSet : Phase → Bool
  | .wrenHold | .wrSel | .wrOp | .wrAh | .wrAl | .wrData | .wrDesel => true
  | _ => false

/-- The phases between the status byte's arrival and its test. -/
def Phase.statusHeld : Phase → Bool
  | .pollDesel | .pollHold | .pollTest => true
  | _ => false

/-- What holds of the reference device at each phase: it has received what was sent; a poll that saw WIP clear is true while it
matters; the latch is set when the WRITE ends. -/
def DeviceInv (s : State) : Prop :=
  s.device.kind = .reference →
    (∀ b, busScan s.config s.trace = some b → s.device.frame = b.sent) ∧
    (s.device.wip = false → s.device.pend = []) ∧
    (s.phase.statusHeld = true → statusBusy s.sr = false → s.device.wip = false) ∧
    (s.phase.afterIdlePoll = true → s.device.wip = false) ∧
    (s.phase.latchSet = true → s.device.wel = true)

/-- Everything together. -/
def Inv (s : State) : Prop := LinesInv s ∧ RegisterInv s ∧ BusInv s ∧ ArrayInv s ∧ DeviceInv s

/-! ### Runs -/

/-- `k` steps, as far as the first fault or refusal. -/
def run : Nat → State → Result
  | 0, s => .next s
  | k + 1, s =>
    match step s with
    | .next t => run k t
    | .fault f => .fault f
    | .refused r => .refused r

/-- `t` is the state the controller's step is taken from: `s`, its turn in the schedule taken off. -/
def ControllersTurn (s t : State) : Prop :=
  (s.schedule = [] ∧ t = s) ∨ ∃ rest, s.schedule = .controller :: rest ∧ t = { s with schedule := rest }

/-- The host keeps its duties for the running operation: the buffer has `count` bytes (70_reset_and_hazards R260). -/
def BuffersFit (s : State) : Prop :=
  (s.op = .read → s.N ≤ s.dst.length) ∧ (s.op = .write → s.N ≤ s.src.length)

/-- A move of the controller or of the device, and of nobody else. -/
def Move.isQuiet : Move → Bool
  | .controller => true
  | .complete => true
  | .reset => false
  | .present _ => false
  | .hostStore _ _ => false

/-- Nobody but the controller and the device moves. -/
def Undisturbed (s : State) : Prop := ∀ m ∈ s.schedule, m.isQuiet = true

/-- The operation accepted in the first step from `s` ends with the `n`-th: the controller is busy after each step before it and in
S_IDLE after it (44_host_operations R200). -/
def EndsIn (n : Nat) (s t : State) : Prop :=
  1 < n ∧ run n s = .next t ∧ t.phase = .idle ∧ ∀ k, 1 ≤ k → k < n → ∃ u, run k s = .next u ∧ u.busy = true

/-! ### Endless executions and the premises of liveness -/

/-- The state after the first `k` of an endless sequence of moves, each of them one `step` with that move on the schedule: the
execution, as far as the first fault or refusal. -/
def playMoves (moves : Nat → Move) (s : State) : Nat → Result
  | 0 => .next { s with schedule := [] }
  | k + 1 =>
    match playMoves moves s k with
    | .next t => step { t with schedule := [moves k] }
    | .fault f => .fault f
    | .refused r => .refused r

/-- The premise `DeviceEventuallyIdle` of one execution (20_memory R72): whenever WIP is 1 a `Complete` comes, after finitely many
moves, however many. It is an assumption about the device: no step of the model enforces it (log 32). -/
def DeviceEventuallyIdle (moves : Nat → Move) (s : State) : Prop :=
  ∀ k t, playMoves moves s k = .next t → t.device.kind = .reference → t.device.wip = true → ∃ j, k ≤ j ∧ moves j = .complete

/-- The controller keeps moving: "eventually" is fairness (70_reset_and_hazards R270). That every exchange it makes completes,
`TransportLive` (40_transport R113), holds by the form of the step (log 21). -/
def ControllerKeepsMoving (moves : Nat → Move) : Prop := ∀ k, ∃ j, k ≤ j ∧ moves j = .controller

/-- A good final state: an operation has ended and no fault is recorded (44_host_operations R200, 70_reset_and_hazards R251). -/
def GoodFinal (s : State) : Prop :=
  s.phase = .idle ∧ s.csSel = false ∧ s.linkEn = false ∧ s.recordedFault = none

/-- The state with the registers that reset leaves unspecified blotted out (10_state R30). -/
def State.blotRegisters (s : State) : State :=
  { s with op := .read, A := 0, N := 0, cur := 0, n := 0, i := 0, sr := 0#8, rstat := .ok }

/-- The bus events (00_scope R13). -/
def Event.isBus : Event → Bool
  | .sel => true
  | .xfer _ _ => true
  | .desel => true
  | .hold _ => true
  | .init => false
  | .req _ _ _ => false
  | .resp _ => false

end Sys2Proof.Machine
end

