-- ==== Sys2Proof/Certificates/Slice0/Obligations.lean ====
section
/-! DEFINITION. The statements for the provers. Each docstring names the rules of spec/ it formalises; where a clause rests on a choice
of the model it names the log entry. -/

open Sys2Proof Sys2Proof.Machine

/-! ## Encoding -/

/-- Every well-formed instruction, at every value of its operands, is what its encoding decodes to (30_encoding R81 to R86, R90, R92). -/
def Obligations.DecodeOfEncode : Prop :=
  ∀ (c : Config) (i : Instr), i.wf c = true → decode c (encode c i) = .ok i

/-- The other direction (30_encoding R81, R84, R90): a frame that decodes is, byte for byte, the frame of the instruction it decodes to,
except at the response positions of RDSR and READ, whose bytes are not looked at (log 26), and of the same length; a request that
decodes to `read` or `write` is that operation's request. -/
def Obligations.EncodeOfDecode : Prop :=
  (∀ (c : Config) (bytes : List Byte) (i : Instr), decodeFrame bytes = .ok i →
    ∃ sent, encode c i = .frame sent ∧ sent.length = bytes.length ∧
      ∀ k, (i = .rdsr → k < 1) → (∀ a m, i = .read a m → k < 3) → sent[k]? = bytes[k]?) ∧
  (∀ (c : Config) (r : Request) (i : Instr), decodeRequest c r = .ok i → i ≠ .init → encode c i = .request r)

/-- The opcode map (30_encoding R85): the whole byte 0 selects the command, and a frame that begins with any other byte is rejected
by name. On the host's side the code 3 is the reserved one (R92, R95). -/
def Obligations.OpcodeMap : Prop :=
  (∀ (o : Byte) (rest : List Byte) (i : Instr), decodeFrame (o :: rest) = .ok i →
    (o = 0x02#8 ∧ ∃ a data, i = .write a data) ∨ (o = 0x03#8 ∧ ∃ a m, i = .read a m) ∨ (o = 0x04#8 ∧ i = .wrdi) ∨
      (o = 0x05#8 ∧ i = .rdsr) ∨ (o = 0x06#8 ∧ i = .wren)) ∧
  (∀ (o : Byte) (rest : List Byte), o ≠ 0x02#8 → o ≠ 0x03#8 → o ≠ 0x04#8 → o ≠ 0x05#8 → o ≠ 0x06#8 →
    decodeFrame (o :: rest) = .error (.unknownOpcode o)) ∧
  (∀ (c : Config) (r : Request), decodeRequest c r = .error .reservedOperation ↔ r.op = 3#2)

/-- A few words written out from 30_encoding R81, R83, R85 and R92, in the numbering of the opcode table (log 19 for the words of one
byte). -/
def Obligations.TableWords : Prop :=
  decodeTableWord 8 0b00000110 = some .wren ∧
  decodeTableWord 8 0b00000100 = some .wrdi ∧
  decodeTableWord 16 0b00000000_00000101 = some .rdsr ∧
  decodeTableWord 32 0b00000000_00111101_00000000_00000011 = some (.read 0x003D#16 1) ∧
  decodeTableWord 32 0b10100001_01000000_00000001_00000010 = some (.write 0x0140#16 [0xA1#8]) ∧
  decodeTableWord 2 0b00 = some .init ∧
  decodeTableWord 2 0b01 = some (.hostRead 0 0 []) ∧
  decodeTableWord 2 0b10 = some (.hostWrite 0 0 []) ∧
  decodeTableWord 2 0b11 = none ∧
  decodeTableWord 8 0b00000111 = none

/-- The address field (30_encoding R83): for `a < MAX_ADDRESS` the two bytes sent are `a div 256` and then `a mod 256`; READ sends
`A + i`, which under Burst is `A`, and WRITE sends `cur`. -/
def Obligations.AddressField : Prop :=
  ∀ (s t : State) (a : Nat), ControllersTurn s t → a < t.config.maxAddress →
    (t.phase = .rdAh → t.A + t.i = a → step s = .next ((exchange t (BitVec.ofNat 8 (a / 256))).goto .rdAl)) ∧
    (t.phase = .rdAl → t.A + t.i = a → step s = .next ((exchange t (BitVec.ofNat 8 (a % 256))).goto .rdData)) ∧
    (t.phase = .wrAh → t.cur = a → step s = .next ((exchange t (BitVec.ofNat 8 (a / 256))).goto .wrAl)) ∧
    (t.phase = .wrAl → t.cur = a →
      step s = .next { exchange t (BitVec.ofNat 8 (a % 256)) with i := 0, phase := .wrData }) ∧
    (RegisterInv t → t.config.readFraming = .burst → t.phase = .rdAh ∨ t.phase = .rdAl → t.A + t.i = t.A)

/-! ## The step -/

/-- A step of the controller runs the instruction it has before it: the decoded request in S_UNINIT and S_IDLE (a request that decodes
to nothing leaves the port, log 3; with no request it waits, log 2), the command whose frame is in flight inside a transaction
(log 17), the latched operation elsewhere. A frame in flight always reads as an instruction, and a whole frame that decodes reads as
the same one. A move of another agent (00_scope R18; the schedule is the model's, log 5) is the device's `Complete`, the reset input, or
the host at the request port or at the source buffer. -/
def Obligations.StepRunsTheInstruction : Prop :=
  (∀ s t : State, ControllersTurn s t →
    (∀ r rest i, t.phase = .uninit ∨ t.phase = .idle → t.requests = r :: rest → decode t.config (.request r) = .ok i →
      step s = exec i t) ∧
    (∀ r rest e, t.phase = .uninit ∨ t.phase = .idle → t.requests = r :: rest → decode t.config (.request r) = .error e →
      step s = .next { t with requests := rest }) ∧
    (t.phase = .uninit ∨ t.phase = .idle → t.requests = [] → step s = .next t) ∧
    (∀ bytes i, frameInFlight t = some bytes → parseFrame bytes = .ok i → step s = exec i t) ∧
    (t.phase ≠ .uninit → t.phase ≠ .idle → frameInFlight t = none → step s = exec (latchedOperation t) t)) ∧
  (∀ (t : State) (bytes : List Byte), frameInFlight t = some bytes → ∃ i, parseFrame bytes = .ok i) ∧
  (∀ (bytes : List Byte) (i : Instr), decodeFrame bytes = .ok i → parseFrame bytes = .ok i) ∧
  (∀ (s : State) (rest : List Move),
    (s.schedule = .complete :: rest → step s = .next { s with schedule := rest, device := s.device.complete }) ∧
    (s.schedule = .reset :: rest → step s = .next (reset { s with schedule := rest })) ∧
    (∀ r, s.schedule = .present r :: rest → step s = .next { s with schedule := rest, requests := s.requests ++ [r] }) ∧
    (∀ k b, s.schedule = .hostStore k b :: rest → step s = .next { s with schedule := rest, src := s.src.set k b }))

/-- The transport primitives (40_transport R110 to R113): what each writes and emits, with the byte received and the duration supplied
by the environment, the duration at least T_CSD_MIN. What the environment supplies is the model's (log 6, 7). -/
def Obligations.TransportPrimitives : Prop :=
  ∀ s : State,
    selectDevice s =
      { s with csSel := true, linkEn := true, device := s.device.select, trace := s.trace ++ [.sel] } ∧
    (∀ o, ∃ replies draws, exchange s o =
      { s with
        device := s.device.receive o, trace := s.trace ++ [.xfer o (received s o)], replies := replies, draws := draws }) ∧
    (∀ p d, s.device.deselect s.config = .ok d → deselectStep p s =
      .next { s with csSel := false, linkEn := false, device := d, trace := s.trace ++ [.desel], phase := p }) ∧
    (∃ delays draws d, s.config.tCsdMin ≤ d ∧ hold s =
      { s with trace := s.trace ++ [.hold d], delays := delays, draws := draws })

/-! ## The wire commands, row by row -/

/-- The four rows of WREN and the four of WRDI in 44_host_operations R198; WRDI's last also advances `cur` by `n`. -/
def Obligations.WriteEnableRows : Prop :=
  ∀ s : State,
    (s.phase = .wrenSel → exec .wren s = .next ((selectDevice s).goto .wrenOp)) ∧
    (s.phase = .wrenOp → exec .wren s = .next ((exchange s 0x06#8).goto .wrenDesel)) ∧
    (∀ d, s.phase = .wrenDesel → s.device.deselect s.config = .ok d → exec .wren s =
      .next { s with csSel := false, linkEn := false, device := d, trace := s.trace ++ [.desel], phase := .wrenHold }) ∧
    (s.phase = .wrenHold → exec .wren s = .next ((hold s).goto .wrSel)) ∧
    (s.phase = .wrdiSel → exec .wrdi s = .next ((selectDevice s).goto .wrdiOp)) ∧
    (s.phase = .wrdiOp → exec .wrdi s = .next ((exchange s 0x04#8).goto .wrdiDesel)) ∧
    (∀ d, s.phase = .wrdiDesel → s.device.deselect s.config = .ok d → exec .wrdi s =
      .next { s with csSel := false, linkEn := false, device := d, trace := s.trace ++ [.desel], phase := .wrdiHold }) ∧
    (s.phase = .wrdiHold → exec .wrdi s = .next { hold s with cur := s.cur + s.n, phase := .split })

/-- RDSR's five rows of 44_host_operations R198: `sr` takes the byte received in the second exchange. -/
def Obligations.RdsrRows : Prop :=
  ∀ s : State,
    (s.phase = .pollSel → exec .rdsr s = .next ((selectDevice s).goto .pollOp)) ∧
    (s.phase = .pollOp → exec .rdsr s = .next ((exchange s 0x05#8).goto .pollDummy)) ∧
    (s.phase = .pollDummy → exec .rdsr s =
      .next { exchange s s.config.dummyByte with sr := received s s.config.dummyByte, phase := .pollDesel }) ∧
    (∀ d, s.phase = .pollDesel → s.device.deselect s.config = .ok d → exec .rdsr s =
      .next { s with csSel := false, linkEn := false, device := d, trace := s.trace ++ [.desel], phase := .pollHold }) ∧
    (s.phase = .pollHold → exec .rdsr s = .next ((hold s).goto .pollTest))

/-- READ's rows of 44_host_operations R198, `m` response positions still to come: the byte received goes to `DST[i]`, `i` advances, and
the last position ends the data phase; the hold goes on to another transaction while bytes are left. -/
def Obligations.ReadRows : Prop :=
  ∀ (s : State) (a : Addr) (m : Nat),
    (s.phase = .rdSel → exec (.read a m) s = .next ((selectDevice s).goto .rdOp)) ∧
    (s.phase = .rdOp → exec (.read a m) s = .next ((exchange s 0x03#8).goto .rdAh)) ∧
    (s.phase = .rdAh → exec (.read a m) s = .next ((exchange s (hi8 a)).goto .rdAl)) ∧
    (s.phase = .rdAl → exec (.read a m) s = .next ((exchange s (lo8 a)).goto .rdData)) ∧
    (s.phase = .rdData → 1 ≤ m → s.i < s.dst.length → exec (.read a m) s =
      .next { exchange s s.config.dummyByte with
        dst := s.dst.set s.i (received s s.config.dummyByte), i := s.i + 1,
        phase := if 1 < m then .rdData else .rdDesel }) ∧
    (∀ d, s.phase = .rdDesel → s.device.deselect s.config = .ok d → exec (.read a m) s =
      .next { s with csSel := false, linkEn := false, device := d, trace := s.trace ++ [.desel], phase := .rdHold }) ∧
    (s.phase = .rdHold → s.i < s.N → exec (.read a m) s = .next ((hold s).goto .rdSel)) ∧
    (s.phase = .rdHold → s.i = s.N → exec (.read a m) s = .next ((hold s).goto .resp))

/-- WRITE's rows of 44_host_operations R198, the data bytes being those still to be sent: one byte out, `i` advances, and the `n`-th ends
the data phase. -/
def Obligations.WriteRows : Prop :=
  ∀ (s : State) (a : Addr) (b : Byte) (data : List Byte),
    (s.phase = .wrSel → exec (.write a data) s = .next ((selectDevice s).goto .wrOp)) ∧
    (s.phase = .wrOp → exec (.write a data) s = .next ((exchange s 0x02#8).goto .wrAh)) ∧
    (s.phase = .wrAh → exec (.write a data) s = .next ((exchange s (hi8 a)).goto .wrAl)) ∧
    (s.phase = .wrAl → exec (.write a data) s = .next { exchange s (lo8 a) with i := 0, phase := .wrData }) ∧
    (s.phase = .wrData → s.i + 1 < s.n → exec (.write a (b :: data)) s =
      .next { exchange s b with i := s.i + 1, phase := .wrData }) ∧
    (s.phase = .wrData → s.i + 1 = s.n → exec (.write a (b :: data)) s =
      .next { exchange s b with i := s.i + 1, phase := .wrDesel }) ∧
    (∀ d, s.phase = .wrDesel → s.device.deselect s.config = .ok d → exec (.write a data) s =
      .next { s with csSel := false, linkEn := false, device := d, trace := s.trace ++ [.desel], phase := .wrHold }) ∧
    (s.phase = .wrHold → exec (.write a data) s = .next ((hold s).goto .wrdiSel))

/-- Where the five commands stop: in a phase of another command nothing can invoke them (30_encoding R97; the refusal is the model's,
log 18); a data access the buffer has no byte for has no target (93 U21, log 23). -/
def Obligations.WireCommandsStop : Prop :=
  ∀ s : State,
    ((∀ p ∈ [Phase.wrenSel, .wrenOp, .wrenDesel, .wrenHold], s.phase ≠ p) → exec .wren s = .refused .notInvocable) ∧
    ((∀ p ∈ [Phase.wrdiSel, .wrdiOp, .wrdiDesel, .wrdiHold], s.phase ≠ p) → exec .wrdi s = .refused .notInvocable) ∧
    ((∀ p ∈ [Phase.pollSel, .pollOp, .pollDummy, .pollDesel, .pollHold], s.phase ≠ p) →
      exec .rdsr s = .refused .notInvocable) ∧
    (∀ a m, (∀ p ∈ [Phase.rdSel, .rdOp, .rdAh, .rdAl, .rdData, .rdDesel, .rdHold], s.phase ≠ p) →
      exec (.read a m) s = .refused .notInvocable) ∧
    (∀ a data, (∀ p ∈ [Phase.wrSel, .wrOp, .wrAh, .wrAl, .wrData, .wrDesel, .wrHold], s.phase ≠ p) →
      exec (.write a data) s = .refused .notInvocable) ∧
    (∀ a m, s.phase = .rdData → 1 ≤ m → s.dst.length ≤ s.i → exec (.read a m) s = .fault .bufferOutOfBounds) ∧
    (∀ a, s.phase = .wrData → s.i < s.n → exec (.write a []) s = .fault .bufferOutOfBounds)

/-! ## The wire commands, whole transactions -/

/-- WREN and WRDI as one transaction each (41_command_codec R130, R131): `Sel, Xfer(0x06, _), Desel, Hold(d)`, of the controller's
registers only the phase being different afterwards, and `Sel, Xfer(0x04, _), Desel, Hold(d)`, with `cur` advanced by `n`. An idle
reference device sets or clears its latch, a busy one rejects the command without a fault (20_memory R70, 70_reset_and_hazards R264). -/
def Obligations.WriteEnableTransactions : Prop :=
  ∀ s : State, s.schedule = [] →
    (s.phase = .wrenSel → run 4 s = .next { s.byteDrawn.delayDrawn with
      csSel := false, linkEn := false, phase := .wrSel,
      device := match s.device.kind with
        | .reference => { s.device with frame := [], wel := s.device.wel || !s.device.wip }
        | .arbitrary => s.device
      trace := s.trace ++ [.sel, .xfer 0x06#8 s.anyByte, .desel, .hold (s.config.tCsdMin + s.byteDrawn.anyDelay)] }) ∧
    (s.phase = .wrdiSel → run 4 s = .next { s.byteDrawn.delayDrawn with
      csSel := false, linkEn := false, phase := .split, cur := s.cur + s.n,
      device := match s.device.kind with
        | .reference => { s.device with frame := [], wel := s.device.wel && s.device.wip }
        | .arbitrary => s.device
      trace := s.trace ++ [.sel, .xfer 0x04#8 s.anyByte, .desel, .hold (s.config.tCsdMin + s.byteDrawn.anyDelay)] })

/-- RDSR as one transaction (41_command_codec R132): `Sel, Xfer(0x05, _), Xfer(DUMMY_BYTE, s), Desel, Hold(d)`, `sr <- s` with the byte
of the second exchange. The reference device answers bit 0 with WIP whatever WIP is, and nothing in it changes (20_memory R58, R69). -/
def Obligations.RdsrTransaction : Prop :=
  ∀ s : State, s.phase = .pollSel → s.schedule = [] →
    ∃ v, (s.device.kind = .reference → v = statusByte s.device.wip s.byteDrawn.anyByte ∧ statusBusy v = s.device.wip) ∧
      (s.device.kind = .arbitrary → v = s.byteDrawn.anyByte) ∧
      run 5 s = .next { s.byteDrawn.byteDrawn.delayDrawn with
        csSel := false, linkEn := false, phase := .pollTest, sr := v,
        device := match s.device.kind with
          | .reference => { s.device with frame := [] }
          | .arbitrary => s.device
        trace := s.trace ++ [.sel, .xfer 0x05#8 s.anyByte, .xfer s.config.dummyByte v, .desel,
          .hold (s.config.tCsdMin + s.byteDrawn.byteDrawn.anyDelay)] }

/-- READ as one transaction of `m` bytes (41_command_codec R133): `m` is the rest of the request under Burst and 1 under PerByte, the
event sequence is `tx` of the READ frame, byte `k` received goes to `DST[i + k]` and nowhere else, `i` advances by `m`. An idle reference
device returns the bytes of its array from `A + i` upward (20_memory R69) and is left as it was. -/
def Obligations.ReadTransaction : Prop :=
  ∀ (s : State) (m : Nat), s.phase = .rdSel → s.schedule = [] → s.i < s.N → m = pendingPositions s →
    s.i + m ≤ s.dst.length →
    (s.config.readFraming = .burst → m = s.N - s.i) ∧ (s.config.readFraming = .perByte → m = 1) ∧
    ∃ g0 g1 g2 got d replies delays draws, got.length = m ∧ s.config.tCsdMin ≤ d ∧
      (s.device.kind = .reference → s.device.wip = false → s.A + s.i + m ≤ s.config.maxAddress →
        ∀ k, k < m → got[k]? = some (s.device.mem.read (s.A + s.i + k))) ∧
      run (m + 6) s = .next { s with
        csSel := false, linkEn := false, i := s.i + m, dst := s.dst.take s.i ++ got ++ s.dst.drop (s.i + m),
        phase := if s.i + m < s.N then .rdSel else .resp,
        device := match s.device.kind with
          | .reference => { s.device with frame := [] }
          | .arbitrary => s.device
        trace := s.trace ++ tx (readFrame s.config (addressField (s.A + s.i)) m) (g0 :: g1 :: g2 :: got) d,
        replies := replies, delays := delays, draws := draws }

/-- WRITE as one transaction (41_command_codec R134): the event sequence is `tx` of the WRITE frame of the chunk's slice of the source
(20_memory R77), `i` ends at `n`. The reference device, idle with its latch set, takes the bytes as pending and starts its write cycle;
otherwise it takes nothing (20_memory R70); its array is not changed yet. -/
def Obligations.WriteTransaction : Prop :=
  ∀ (s : State) (data : List Byte), s.phase = .wrSel → s.schedule = [] → RegisterInv s →
    s.cur - s.A + s.n ≤ s.src.length → data = (s.src.drop (s.cur - s.A)).take s.n →
    ∃ got d replies delays draws, got.length = 3 + s.n ∧ s.config.tCsdMin ≤ d ∧
      run (s.n + 6) s = .next { s with
        csSel := false, linkEn := false, i := s.n, phase := .wrdiSel,
        device := match s.device.kind with
          | .reference =>
            if s.device.wip = false ∧ s.device.wel = true then
              { s.device with frame := [], pend := cellsFrom s.cur data, wip := true }
            else { s.device with frame := [] }
          | .arbitrary => s.device
        trace := s.trace ++ tx (writeFrame (addressField s.cur) data) got d,
        replies := replies, delays := delays, draws := draws }

/-- `awaitIdle` (42_status_poller R162), against a device whose every byte is scripted: a poll for each status byte with bit 0 set, one
more for the first with bit 0 clear, then on to what the poll was for; the trace is one of the set `Idle` of 44_host_operations R195. -/
def Obligations.AwaitIdlePolls : Prop :=
  ∀ (s : State) (busy : List (Byte × Byte)) (x y : Byte) (more : List Byte),
    s.phase = .pollSel → s.schedule = [] → s.device.kind = .arbitrary →
    (∀ p ∈ busy, statusBusy p.2 = true) → statusBusy y = false →
    s.replies = busy.flatMap (fun p => [p.1, p.2]) ++ x :: y :: more →
    ∃ t tr, run (6 * (busy.length + 1)) s = .next t ∧ t.sr = y ∧ t.replies = more ∧
      t.trace = s.trace ++ tr ∧ IsIdle s.config tr ∧ tr.countP (fun e => decide (e = .sel)) = busy.length + 1 ∧
      t.phase = (match s.op with | .write => .wrenSel | .read => if s.N = 0 then .resp else .rdSel)

/-- Hang (60_exceptions R226, 42_status_poller R163): while the device stays busy the poll never ends and never sticks. Every six steps
of the controller (nobody else moves: the schedule is empty, log 5) are one more RDSR transaction, whose status byte has bit 0 set, and
the controller is again where the poll begins; and after any number of steps no response has been emitted, no request taken, and every
new event is a bus event. -/
def Obligations.BusyDeviceHangs : Prop :=
  ∀ s : State, s.phase = .pollSel → s.schedule = [] → s.device.kind = .reference → s.device.wip = true →
    (∀ k, ∃ (t : State) (polls : List (List Event)), run (6 * k) s = .next t ∧ t.phase = .pollSel ∧
      t.trace = s.trace ++ polls.flatten ∧ polls.length = k ∧
      (∀ p ∈ polls, ∃ st, IsRdsr s.config st p ∧ statusBusy st = true) ∧ polls.flatten.count .sel = k) ∧
    ∀ k, ∃ t tr, run k s = .next t ∧ t.busy = true ∧ t.requests = s.requests ∧ t.dst = s.dst ∧
      t.trace = s.trace ++ tr ∧ ∀ e ∈ tr, e.isBus = true

/-! ## The host operations -/

/-- `initialize()` (44_host_operations R190, 70_reset_and_hazards R259): in S_UNINIT the lines go inactive and the controller becomes
ready, in S_IDLE nothing but the trace and the port changes, and in no busy phase is it accepted. -/
def Obligations.InitOperation : Prop :=
  ∀ s : State,
    (s.phase = .uninit → exec .init s =
      .next { s with
        csSel := false, linkEn := false, phase := .idle, trace := s.trace ++ [.init], requests := s.requests.tail }) ∧
    (s.phase = .idle → exec .init s = .next { s with trace := s.trace ++ [.init], requests := s.requests.tail }) ∧
    (s.busy = true → exec .init s = .next s)

/-- The rows of 44_host_operations R198 that host `read` and host `write` take (R192 to R194, R197): acceptance in S_IDLE, the range
check, the splitter, the test of the poll, the response. In the phases of a wire command the port waits (log 2). -/
def Obligations.HostOperationRows : Prop :=
  ∀ (s : State) (A N : Nat) (buffer : List Byte),
    (s.phase = .idle → exec (.hostRead A N buffer) s =
      .next { s with
        op := .read, A := A, N := N, dst := buffer, trace := s.trace ++ [.req .read A N], phase := .check,
        requests := s.requests.tail }) ∧
    (s.phase = .idle → exec (.hostWrite A N buffer) s =
      .next { s with
        op := .write, A := A, N := N, src := buffer, trace := s.trace ++ [.req .write A N], phase := .check,
        requests := s.requests.tail }) ∧
    ∀ i, i = .hostRead A N buffer ∨ i = .hostWrite A N buffer →
      (s.phase = .check → (s.A + s.N > s.config.maxAddress ∨ s.A ≥ s.config.maxAddress) →
        exec i s = .next { s with rstat := .outOfRange, phase := .resp }) ∧
      (s.phase = .check → s.A + s.N ≤ s.config.maxAddress → s.A < s.config.maxAddress → s.op = .read →
        exec i s = .next { s with rstat := .ok, phase := .pollSel }) ∧
      (s.phase = .check → s.A + s.N ≤ s.config.maxAddress → s.A < s.config.maxAddress → s.op = .write →
        exec i s = .next { s with rstat := .ok, cur := s.A, phase := .split }) ∧
      (s.phase = .split → s.cur = s.A + s.N → exec i s = .next { s with phase := .resp }) ∧
      (s.phase = .split → s.cur ≠ s.A + s.N → exec i s =
        .next { s with
          n := min (s.A + s.N - s.cur) (s.config.pageSize - s.cur % s.config.pageSize), phase := .pollSel }) ∧
      (s.phase = .pollTest → s.sr.getLsbD 0 = true → exec i s = .next { s with phase := .pollSel }) ∧
      (s.phase = .pollTest → s.sr.getLsbD 0 = false → s.op = .write → exec i s = .next { s with phase := .wrenSel }) ∧
      (s.phase = .pollTest → s.sr.getLsbD 0 = false → s.op = .read → s.N = 0 →
        exec i s = .next { s with phase := .resp }) ∧
      (s.phase = .pollTest → s.sr.getLsbD 0 = false → s.op = .read → 1 ≤ s.N →
        exec i s = .next { s with i := 0, phase := .rdSel }) ∧
      (s.phase = .resp → exec i s = .next { s with trace := s.trace ++ [.resp s.rstat], phase := .idle }) ∧
      (s.phase ≠ .idle → s.phase ≠ .uninit → frameInFlight s ≠ none → exec i s = .next s)

/-- Accepting a request (44_host_operations R192): in S_IDLE a READ or WRITE request is taken in one step, `op`, `A`, `N` and the event,
on to S_CHECK. From then on a busy controller takes nothing, whatever its step is, and stays busy through every step of every agent
but the reset input, until the step that emits `Resp` and ends in S_IDLE. -/
def Obligations.AcceptRequest : Prop :=
  (∀ (s t : State) (r : Request) (rest : List Request) (op : HostOp), ControllersTurn s t → t.phase = .idle →
    t.requests = r :: rest → r.op = op.code → r.address < 2 ^ t.config.operandWidth → r.count < 2 ^ t.config.operandWidth →
    ∃ u, step s = .next u ∧ u.op = op ∧ u.A = r.address ∧ u.N = r.count ∧ u.phase = .check ∧ u.busy = true ∧
      u.trace = t.trace ++ [.req op r.address r.count] ∧ u.requests = rest) ∧
  (∀ s t u : State, ControllersTurn s t → t.busy = true → step s = .next u → u.requests = t.requests) ∧
  (∀ s u : State, s.busy = true → (∀ rest, s.schedule ≠ .reset :: rest) → step s = .next u →
    u.busy = true ∨ (s.phase = .resp ∧ u.phase = .idle ∧ u.trace = s.trace ++ [.resp s.rstat]))

/-- A READ or WRITE request before `initialize()` is refused (70_reset_and_hazards R256): the controller does not accept it, emits no
event, and stays in S_UNINIT with every register as it was. -/
def Obligations.RequestBeforeInit : Prop :=
  ∀ (s t : State) (r : Request) (rest : List Request), ControllersTurn s t → t.phase = .uninit → t.requests = r :: rest →
    r.op = 1#2 ∨ r.op = 2#2 →
    ∃ u, step s = .next u ∧ u.phase = .uninit ∧ u.trace = t.trace ∧ u.csSel = t.csSel ∧ u.linkEn = t.linkEn ∧
      u.op = t.op ∧ u.A = t.A ∧ u.N = t.N ∧ u.cur = t.cur ∧ u.n = t.n ∧ u.i = t.i ∧ u.sr = t.sr ∧ u.rstat = t.rstat ∧
      u.src = t.src ∧ u.dst = t.dst ∧ u.device = t.device

/-- The range check (44_host_operations R191): the first thing done after a request is accepted, before any bus event, on the exact sum;
a request is in range iff `A < MAX_ADDRESS` and `A + N <= MAX_ADDRESS`; and the corner cases of the rule, the last of them
(`(2^W - 1, 2^W - 1)`) where its exact sum exceeds MAX_ADDRESS, as it does for W of at least 16 bits and MAX_ADDRESS at its largest. -/
def Obligations.RangeCheck : Prop :=
  (∀ (c : Config) (A N : Nat),
    (outOfRange c A N = true ↔ A + N > c.maxAddress ∨ A ≥ c.maxAddress) ∧
    (outOfRange c A N = false ↔ A < c.maxAddress ∧ A + N ≤ c.maxAddress)) ∧
  (∀ c : Config,
    outOfRange c 0 0 = false ∧ outOfRange c 0 c.maxAddress = false ∧ outOfRange c 0 (c.maxAddress + 1) = true ∧
    outOfRange c (c.maxAddress - 1) 1 = false ∧ outOfRange c (c.maxAddress - 1) 2 = true ∧
    outOfRange c (c.maxAddress - 1) 0 = false ∧ outOfRange c c.maxAddress 0 = true ∧ outOfRange c c.maxAddress 1 = true ∧
    (c.maxAddress < 2 * (2 ^ c.operandWidth - 1) →
      outOfRange c (2 ^ c.operandWidth - 1) (2 ^ c.operandWidth - 1) = true)) ∧
  (∀ s t : State, ControllersTurn s t → t.phase = .check →
    ∃ u, step s = .next u ∧ u.trace = t.trace ∧
      (u.phase = .resp ↔ outOfRange t.config t.A t.N = true) ∧ (u.rstat = .outOfRange ↔ outOfRange t.config t.A t.N = true))

/-- `OutOfRange` (60_exceptions R221, R228, R229): a request that fails the range check is answered in three steps with
`Req, Resp(OutOfRange)` and nothing else: the lines, the device, the working registers and the bytes of both buffers are as they were,
and the controller is back in S_IDLE. Only host READ and host WRITE raise it. -/
def Obligations.OutOfRangeIsQuiet : Prop :=
  (∀ (s : State) (r : Request) (rest : List Request) (op : HostOp), s.phase = .idle → LinesInv s → s.schedule = [] →
    s.requests = r :: rest → r.op = op.code → r.address < 2 ^ s.config.operandWidth → r.count < 2 ^ s.config.operandWidth →
    outOfRange s.config r.address r.count = true →
    run 3 s = .next { s with
      csSel := false, linkEn := false,
      op := op, A := r.address, N := r.count, rstat := .outOfRange, requests := rest,
      src := (match op with | .write => r.buffer | .read => s.src),
      dst := (match op with | .read => r.buffer | .write => s.dst),
      trace := s.trace ++ [.req op r.address r.count, .resp .outOfRange] }) ∧
  (∀ (i : Instr) (s t : State), exec i s = .next t → s.rstat = .ok → t.rstat = .outOfRange →
    s.phase = .check ∧ outOfRange s.config s.A s.N = true ∧
      ((∃ a n b, i = .hostRead a n b) ∨ (∃ a n b, i = .hostWrite a n b)))

/-- A write of no bytes (43_page_write_splitter R174): no chunk, no poll, no bus activity, `Ok`. -/
def Obligations.EmptyWrite : Prop :=
  (∀ (c : Config) (A : Nat), chunksOf c A 0 = []) ∧
  (∀ (s : State) (r : Request) (rest : List Request), s.phase = .idle → s.schedule = [] → s.requests = r :: rest →
    r.op = 2#2 → r.count = 0 → r.address < 2 ^ s.config.operandWidth → r.address < s.config.maxAddress →
    run 4 s = .next { s with
      op := .write, A := r.address, N := 0, cur := r.address, rstat := .ok, requests := rest, src := r.buffer,
      trace := s.trace ++ [.req .write r.address 0, .resp .ok] })

/-- Only bit 0 of the status byte counts (42_status_poller R161): the test is a function of that bit, every even byte means idle and
every odd one busy, and two states that differ only in bits 7:1 of `sr` go the same way. -/
def Obligations.OnlyBitZeroCounts : Prop :=
  (∀ v : Byte, statusBusy v = decide (v.toNat % 2 = 1)) ∧
  (∀ (s t : State) (v : Byte), ControllersTurn s t → t.phase = .pollTest → v.getLsbD 0 = t.sr.getLsbD 0 →
    ∃ u, controllerStep t = .next u ∧ controllerStep { t with sr := v } = .next { u with sr := v } ∧
      (t.sr.getLsbD 0 = true → u.phase = .pollSel) ∧ (t.sr.getLsbD 0 = false → u.phase ≠ .pollSel))

/-! ## Frames -/

/-- What the five wire commands leave unchanged (41_command_codec R130 to R134, "Registers written"): the latches, `n`, `rstat`, the
port and the source buffer always; `sr` but for RDSR, `cur` but for WRDI, `i` but for READ and WRITE, the destination buffer but for the
byte `DST[i]` READ stores; and every byte of the device's array. -/
def Obligations.WireCommandFrame : Prop :=
  ∀ (i : Instr) (s t : State),
    i = .wren ∨ i = .wrdi ∨ i = .rdsr ∨ (∃ a m, i = .read a m) ∨ (∃ a data, i = .write a data) → exec i s = .next t →
    t.config = s.config ∧ t.op = s.op ∧ t.A = s.A ∧ t.N = s.N ∧ t.n = s.n ∧ t.rstat = s.rstat ∧ t.requests = s.requests ∧
      t.src = s.src ∧ t.schedule = s.schedule ∧ t.recordedFault = s.recordedFault ∧
      (i ≠ .rdsr → t.sr = s.sr) ∧ (i ≠ .wrdi → t.cur = s.cur) ∧
      ((∀ a m, i ≠ .read a m) → (∀ a data, i ≠ .write a data) → t.i = s.i) ∧
      ((∀ a m, i ≠ .read a m) ∨ s.phase ≠ .rdData → t.dst = s.dst) ∧
      (∀ k, k ≠ s.i → t.dst[k]? = s.dst[k]?) ∧ t.dst.length = s.dst.length ∧
      (∀ a, t.device.mem.read a = s.device.mem.read a)

/-- What the three host operations leave unchanged (44_host_operations R198, "writes"): the lines but for INIT in S_UNINIT, `op`, `A`,
`N` and the buffers but at acceptance, `rstat` and `cur` but at the range check, `n` but at the splitter, `i` but after the poll; `sr`,
the device and the environment always. -/
def Obligations.HostOperationFrame : Prop :=
  ∀ (i : Instr) (s t : State), i = .init ∨ (∃ a n b, i = .hostRead a n b) ∨ (∃ a n b, i = .hostWrite a n b) → exec i s = .next t →
    t.config = s.config ∧ t.sr = s.sr ∧ t.device = s.device ∧ t.schedule = s.schedule ∧ t.replies = s.replies ∧
      t.delays = s.delays ∧ t.draws = s.draws ∧ t.recordedFault = s.recordedFault ∧
      (∀ a, t.device.mem.read a = s.device.mem.read a) ∧
      (¬ (i = .init ∧ s.phase = .uninit) → t.csSel = s.csSel ∧ t.linkEn = s.linkEn) ∧
      (i = .init ∨ s.phase ≠ .idle → t.op = s.op ∧ t.A = s.A ∧ t.N = s.N ∧ t.src = s.src ∧ t.dst = s.dst) ∧
      ((∀ a n b, i ≠ .hostWrite a n b) → t.src = s.src) ∧ ((∀ a n b, i ≠ .hostRead a n b) → t.dst = s.dst) ∧
      (s.phase ≠ .check → t.rstat = s.rstat ∧ t.cur = s.cur) ∧ (s.phase ≠ .split → t.n = s.n) ∧
      (s.phase ≠ .pollTest → t.i = s.i)

/-! ## The reference device -/

/-- What the reference device returns (20_memory R69), `frame` holding the bytes received before this one: bit 0 of the status byte is
WIP, a READ of an idle device returns the array, and everything else is the model's draw of "any value" (log 6). -/
def Obligations.DeviceReturns : Prop :=
  ∀ (s : State) (o : Byte), s.device.kind = .reference →
    (s.device.frame = [0x05#8] →
      received s o = statusByte s.device.wip s.anyByte ∧ statusBusy (received s o) = s.device.wip) ∧
    (∀ h l more, s.device.frame = 0x03#8 :: h :: l :: more → s.device.wip = false →
      h.toNat * 256 + l.toNat + more.length < s.config.maxAddress →
      received s o = s.device.mem.read (h.toNat * 256 + l.toNat + more.length)) ∧
    (s.device.frame ≠ [0x05#8] →
      (∀ h l more, s.device.frame = 0x03#8 :: h :: l :: more →
        s.device.wip = true ∨ s.config.maxAddress ≤ h.toNat * 256 + l.toNat + more.length) →
      received s o = s.anyByte)

/-- What a transaction does to the reference device (20_memory R70), row by row; a frame the table gives no row, and a WRITE outside its
row while the latch is set, are the model's faults (log 16). In every case the frame is forgotten. -/
def Obligations.DeviceTakesFrame : Prop :=
  ∀ (c : Config) (d : Device), d.kind = .reference →
    (∀ rest, d.frame = 0x05#8 :: rest ∨ d.frame = 0x03#8 :: rest → d.deselect c = .ok { d with frame := [] }) ∧
    (∀ o rest, d.frame = o :: rest → d.wip = true → d.deselect c = .ok { d with frame := [] }) ∧
    (d.frame = [0x06#8] → d.wip = false → d.deselect c = .ok { d with frame := [], wel := true }) ∧
    (d.frame = [0x04#8] → d.wip = false → d.deselect c = .ok { d with frame := [], wel := false }) ∧
    (∀ rest, d.frame = 0x02#8 :: rest → d.wip = false → d.wel = false → d.deselect c = .ok { d with frame := [] }) ∧
    (d.wip = false → (∀ o rest, d.frame = o :: rest → o ≠ 0x02#8 → o ≠ 0x03#8 → o ≠ 0x04#8 → o ≠ 0x05#8 → o ≠ 0x06#8 →
      d.deselect c = .error .undefinedFrame)) ∧
    (∀ h l data a, d.frame = 0x02#8 :: h :: l :: data → d.wip = false → d.wel = true → a = h.toNat * 256 + l.toNat →
      (1 ≤ data.length → data.length ≤ c.pageSize → a + data.length ≤ c.maxAddress →
        a / c.pageSize = (a + data.length - 1) / c.pageSize →
        d.deselect c = .ok { d with frame := [], pend := (List.range' a data.length).zip data, wip := true }) ∧
      (data = [] ∨ c.maxAddress < a + data.length ∨ a / c.pageSize ≠ (a + data.length - 1) / c.pageSize →
        d.deselect c = .error .malformedWrite))

/-- `Complete` (20_memory R71): enabled while WIP is set, it moves every pending byte into the array, the last of two for one address
counting, and clears `pend`, WIP and the latch; every other byte stays. Nothing else changes a byte of the array, and nothing sets WIP
but the end of a WRITE transaction. -/
def Obligations.CompleteCommits : Prop :=
  (∀ d : Device, d.kind = .reference → d.wip = true → d.mem.wf = true →
    d.complete.pend = [] ∧ d.complete.wip = false ∧ d.complete.wel = false ∧ d.complete.frame = d.frame ∧
      d.complete.mem.wf = true ∧
      (∀ a, (∀ x ∈ d.pend, x.1 ≠ a) → d.complete.mem.read a = d.mem.read a) ∧
      (∀ before a b after, d.pend = before ++ (a, b) :: after → (∀ x ∈ after, x.1 ≠ a) → d.complete.mem.read a = b)) ∧
  (∀ s t : State, step s = .next t →
    (∀ a, t.device.mem.read a ≠ s.device.mem.read a →
      s.device.wip = true ∧ (∃ rest, s.schedule = .complete :: rest) ∧ ∃ x ∈ s.device.pend, x.1 = a) ∧
    (s.device.wip = false → t.device.wip = true →
      s.device.frame.head? = some 0x02#8 ∧ s.device.wel = true ∧ t.trace = s.trace ++ [.desel]))

/-! ## Reset -/

/-- Reset (70_reset_and_hazards R250): whatever the state, the reset move ends in S_UNINIT with the lines inactive and an empty trace,
having emitted no event; and the model's state after reset is such a state. -/
def Obligations.ResetState : Prop :=
  (∀ (s : State) (rest : List Move), s.schedule = .reset :: rest →
    ∃ t, step s = .next t ∧ t.phase = .uninit ∧ t.csSel = false ∧ t.linkEn = false ∧ t.trace = []) ∧
  (State.reset.phase = .uninit ∧ State.reset.csSel = false ∧ State.reset.linkEn = false ∧ State.reset.trace = [])

/-- Reset in a busy phase and outside one (70_reset_and_hazards R251, R252): in a busy phase AbortedTransaction is recorded, no later
step forgets it, and the state is never again a good final one; in S_UNINIT and S_IDLE no fault is recorded and the device goes on as it
was. Neither touches the host's buffers, the bytes of the array or a running write cycle. That the device may be anything after an
abort is the model's form of "undefined" (log 9). -/
def Obligations.ResetDuringOperation : Prop :=
  (∀ (s t : State) (rest : List Move), s.schedule = .reset :: rest → step s = .next t →
    t.src = s.src ∧ t.dst = s.dst ∧ t.requests = s.requests ∧ t.config = s.config ∧
      (s.busy = true → t.recordedFault = some .abortedTransaction ∧ t.device = { s.device with kind := .arbitrary }) ∧
      (s.busy = false → t.recordedFault = s.recordedFault ∧ t.device = s.device)) ∧
  (∀ s t : State, step s = .next t → s.recordedFault ≠ none → t.recordedFault ≠ none ∧ ¬ GoodFinal t)

/-! ## The splitter -/

/-- The chunk length (43_page_write_splitter R172): whenever it is computed it is between 1 and PAGE_SIZE and no more than what is left;
the step that computes it starts no empty `writePage`. -/
def Obligations.ChunkLength : Prop :=
  (∀ (c : Config) (cur stop : Nat), cur < stop →
    1 ≤ chunkLength c cur stop ∧ chunkLength c cur stop ≤ c.pageSize ∧ chunkLength c cur stop ≤ stop - cur ∧
      1 ≤ toPageEnd c cur ∧ toPageEnd c cur ≤ c.pageSize) ∧
  (∀ s t u : State, ControllersTurn s t → RegisterInv t → t.phase = .split → step s = .next u → u.phase = .pollSel →
    t.cur < t.A + t.N ∧ u.n = chunkLength t.config t.cur (t.A + t.N) ∧ 1 ≤ u.n ∧ u.n ≤ t.config.pageSize)

/-- Every chunk stays in one page (43_page_write_splitter R175). -/
def Obligations.ChunksInOnePage : Prop :=
  ∀ (c : Config) (A N a n : Nat), (a, n) ∈ chunksOf c A N → a / c.pageSize = (a + n - 1) / c.pageSize

/-- Exact cover in ascending order (43_page_write_splitter R176): the addresses of the chunks, in order, are `A, A + 1, .., A + N - 1`;
each chunk starts where the one before it ends; every chunk of a request in range ends in the address space; and on the write path `cur`
stays between `A` and `A + N` and never goes down. -/
def Obligations.ChunksCover : Prop :=
  (∀ (c : Config) (A N : Nat),
    (chunksOf c A N).flatMap (fun x => List.range' x.1 x.2) = List.range' A N ∧
    (∀ x ∈ (chunksOf c A N).head?, x.1 = A) ∧
    (∀ x ∈ (chunksOf c A N).getLast?, x.1 + x.2 = A + N) ∧
    (∀ before x y after, chunksOf c A N = before ++ x :: y :: after → y.1 = x.1 + x.2) ∧
    (A + N ≤ c.maxAddress → ∀ x ∈ chunksOf c A N, x.1 + x.2 ≤ c.maxAddress)) ∧
  (∀ s t u : State, ControllersTurn s t → RegisterInv t → t.op = .write →
    t.phase ≠ .uninit → t.phase ≠ .idle → t.phase ≠ .check → t.phase ≠ .resp → step s = .next u →
    t.A ≤ t.cur ∧ t.cur ≤ t.A + t.N ∧ t.cur ≤ u.cur ∧ u.cur ≤ t.A + t.N)

/-- Number and shape of the chunks (43_page_write_splitter R177), with `P = PAGE_SIZE` and `r = A mod P`. -/
def Obligations.ChunkShape : Prop :=
  (∀ (c : Config) (A : Nat), (chunksOf c A 0).length = 0) ∧
  (∀ (c : Config) (A N P r k : Nat), 1 ≤ N → P = c.pageSize → r = A % P → k = (chunksOf c A N).length →
    k = (r + N + P - 1) / P ∧
    (k = 1 → chunksOf c A N = [(A, N)]) ∧
    (2 ≤ k →
      (chunksOf c A N)[0]? = some (A, P - r) ∧
      (∀ j, 1 ≤ j → j + 2 ≤ k → (chunksOf c A N)[j]? = some ((A / P + j) * P, P)) ∧
      (chunksOf c A N)[k - 1]? = some ((A / P + (k - 1)) * P, (r + N - 1) % P + 1)))

/-- The document's three boundary statements (43_page_write_splitter R178). -/
def Obligations.ChunkBoundaries : Prop :=
  (∀ c : Config, chunksOf c (c.pageSize - 1) 2 = [(c.pageSize - 1, 1), (c.pageSize, 1)]) ∧
  (∀ (c : Config) (q : Nat), chunksOf c (q * c.pageSize) c.pageSize = [(q * c.pageSize, c.pageSize)]) ∧
  (∀ c : Config, c.maxAddress = 0x4000 → c.pageSize = 64 → chunksOf c 0x003D 6 = [(0x003D, 3), (0x0040, 3)])

/-! ## Ports -/

/-- The ports that are computed (10_state R34, R38; 30_encoding R94): the two numeric codes of a configuration differ, and any two
different numbers are the codes of some configuration (log 12); the chip-select line is at its active level exactly while `cs_sel` is
1; a controller is `busy` exactly outside S_UNINIT and S_IDLE. -/
def Obligations.DerivedPorts : Prop :=
  (∀ c : Config, Status.code c .ok ≠ Status.code c .outOfRange) ∧
  (∀ x y : Nat, x ≠ y → ∃ k : StatusCodes, k.ok = x ∧ k.outOfRange = y) ∧
  (∀ s : State, s.chipSelectLevel = s.config.csActiveLevel ↔ s.csSel = true) ∧
  (∀ s : State, (s.busy = true ↔ s.phase ≠ .uninit ∧ s.phase ≠ .idle) ∧ (s.initialized = true ↔ s.phase ≠ .uninit))

/-! ## Noninterference -/

/-- In a busy phase a presented request simply waits (70_reset_and_hazards R259): what stands on the port influences nothing the
controller does, and stays there. -/
def Obligations.BusyPortWaits : Prop :=
  ∀ (s : State) (q : List Request), s.busy = true →
    (∀ t, controllerStep s = .next t → controllerStep { s with requests := q } = .next { t with requests := q }) ∧
    (∀ f, controllerStep s = .fault f → controllerStep { s with requests := q } = .fault f)

/-- A received byte is discarded except at a response position (40_transport R114): in a phase that sends an opcode, an address byte
or a data byte, two bytes from the device lead to states that differ at most in the trace and in what the device has left to say. -/
def Obligations.ReceivedByteDiscarded : Prop :=
  ∀ (s : State) (x y : Byte) (rest : List Byte),
    s.phase = .pollOp ∨ s.phase = .rdOp ∨ s.phase = .rdAh ∨ s.phase = .rdAl ∨ s.phase = .wrenOp ∨ s.phase = .wrOp ∨
      s.phase = .wrAh ∨ s.phase = .wrAl ∨ s.phase = .wrData ∨ s.phase = .wrdiOp →
    s.replies = x :: rest →
    ∀ t, controllerStep s = .next t → ∃ u, controllerStep { s with replies := y :: rest } = .next u ∧
      { t with trace := [], replies := [] } = ({ u with trace := [], replies := [] } : State)

/-- What the registers hold when no operation is running is never observed (10_state R20, R22, R30): from two states of S_UNINIT or
S_IDLE that differ only in `op`, `A`, `N`, `cur`, `n`, `i`, `sr`, `rstat`, every number of steps leads to states that differ only in
these. So the values the model gives them at reset (log 8) are seen by no trace. -/
def Obligations.DeadRegistersUnobserved : Prop :=
  ∀ s u : State, s.phase = .uninit ∨ s.phase = .idle → s.blotRegisters = u.blotRegisters →
    ∀ k t, run k s = .next t → ∃ v, run k u = .next v ∧ t.blotRegisters = v.blotRegisters ∧ t.phase = v.phase ∧ t.trace = v.trace

/-! ## Invariants -/

/-- The line invariant (10_state R37): kept by every step of every agent; an exchange happens only while both lines are 1. -/
def Obligations.LinesKept : Prop :=
  ∀ s t : State, LinesInv s → step s = .next t →
    LinesInv t ∧ (∀ o v, t.trace = s.trace ++ [.xfer o v] → s.csSel = true ∧ s.linkEn = true) ∧
      (t.trace = s.trace ++ [.sel] → t.csSel = true ∧ t.linkEn = true) ∧
      (t.trace = s.trace ++ [.desel] → t.csSel = false ∧ t.linkEn = false)

/-- The register invariant (10_state R24 to R27) is kept by every step. -/
def Obligations.RegistersKept : Prop :=
  ∀ s t : State, RegisterInv s → step s = .next t → RegisterInv t

/-- The bus invariant is kept by every step, whatever the device returns: no trace breaks the framing, opcode, length, range, page,
dummy, bracketing, gating or quiet-failure rules of 44_host_operations R201 and 40_transport R116. -/
def Obligations.BusKept : Prop :=
  ∀ s t : State, RegisterInv s → BusInv s → step s = .next t → BusInv t

/-- The array stays in canonical form and inside the address space (20_memory R51), with the data being committed. -/
def Obligations.ArrayKept : Prop :=
  ∀ s t : State, ArrayInv s → step s = .next t → ArrayInv t ∧ t.config = s.config

/-- The reference device keeps up with the sequencer (20_memory R67, R71): it has received what was sent, a poll that saw WIP clear
stays true while it matters, and its latch is set when a WRITE ends. -/
def Obligations.DeviceKept : Prop :=
  ∀ s t : State, RegisterInv s → BusInv s → DeviceInv s → step s = .next t → DeviceInv t

/-- The invariants hold of the state after reset, for every configuration. -/
def Obligations.InvariantAtReset : Prop := Inv State.reset ∧ ∀ c : Config, Inv (State.resetOf c)

/-- The sequencer never sticks and nothing stops it (44_host_operations R198, "total on busy phases"; 20_memory R74, "Of frames the
controller can actually send, the model defines every one"): from a state that meets the invariants, the host keeping its duty on the
buffers (70_reset_and_hazards R260), every step answers a next state, and a step of a busy controller goes on to another phase or
counts one more byte. -/
def Obligations.SequencerProgress : Prop :=
  ∀ s : State, Inv s → (s.busy = true → BuffersFit s) →
    ∃ t, step s = .next t ∧
      ((s.schedule = [] ∨ s.schedule.head? = some .controller) → s.busy = true →
        t.phase ≠ s.phase ∨ (t.i = s.i + 1 ∧ (s.phase = .rdData ∨ s.phase = .wrData)))

/-! ## Whole-trace rules -/

/-- Chip-select timing (40_transport R117): in every trace of a state that meets the bus invariant, between a `Desel` and the next `Sel`
there is exactly one bus event, a `Hold(d)` with `d >= T_CSD_MIN`. -/
def Obligations.DeselectTimeHeld : Prop :=
  ∀ (s : State) (before between after : List Event), BusInv s →
    s.trace = before ++ .desel :: (between ++ .sel :: after) → .sel ∉ between →
    ∃ d, s.config.tCsdMin ≤ d ∧ between.filter Event.isBus = [.hold d]

/-- Bracketing (41_command_codec R136): every WRITE transaction comes immediately after a WREN transaction, and the next transaction, if
there is one, is a WRDI; every WREN transaction comes immediately after an RDSR transaction whose status byte has bit 0 = 0; WREN is
followed by nothing but WRITE, and WRDI comes after nothing but WRITE. -/
def Obligations.WriteBracketed : Prop :=
  ∀ (s : State) (before after : List Event) (v : Byte), BusInv s →
    (s.trace = before ++ .sel :: .xfer 0x02#8 v :: after →
      (∃ p w d, before.filter Event.isBus = p ++ [.sel, .xfer 0x06#8 w, .desel, .hold d]) ∧
      (∀ x o w y, after = x ++ .sel :: .xfer o w :: y → .sel ∉ x → o = 0x04#8)) ∧
    (s.trace = before ++ .sel :: .xfer 0x06#8 v :: after →
      (∃ p w x st d, before.filter Event.isBus = p ++ [.sel, .xfer 0x05#8 w, .xfer x st, .desel, .hold d] ∧
        st.getLsbD 0 = false) ∧
      (∀ x o w y, after = x ++ .sel :: .xfer o w :: y → .sel ∉ x → o = 0x02#8)) ∧
    (s.trace = before ++ .sel :: .xfer 0x04#8 v :: after →
      ∃ p w q d, before.filter Event.isBus = p ++ .sel :: .xfer 0x02#8 w :: (q ++ [.desel, .hold d]) ∧ .sel ∉ q)

/-- Every `write` that ends has one of the traces of 44_host_operations R195, against any device, and its end state is that of R200. -/
def Obligations.WriteTraceSound : Prop :=
  ∀ (s t : State) (r : Request) (rest : List Request) (n : Nat), s.phase = .idle → LinesInv s → s.requests = r :: rest →
    r.op = 2#2 → r.address < 2 ^ s.config.operandWidth → r.count < 2 ^ s.config.operandWidth → Undisturbed s → EndsIn n s t →
    t.csSel = false ∧ t.linkEn = false ∧ t.requests = rest ∧
      (t.rstat = .outOfRange ↔ outOfRange s.config r.address r.count = true) ∧
      ∃ tr, t.trace = s.trace ++ tr ∧ IsWriteTrace s.config r.address r.count r.buffer tr

/-- Every `read` that ends has one of the traces of 44_host_operations R195, against any device and under both framings; the bytes
received at the data positions are those the destination buffer holds, and the rest of the buffer is untouched. -/
def Obligations.ReadTraceSound : Prop :=
  ∀ (s t : State) (r : Request) (rest : List Request) (n : Nat), s.phase = .idle → LinesInv s → s.requests = r :: rest →
    r.op = 1#2 → r.address < 2 ^ s.config.operandWidth → r.count < 2 ^ s.config.operandWidth → Undisturbed s → EndsIn n s t →
    t.csSel = false ∧ t.linkEn = false ∧ t.requests = rest ∧
      (t.rstat = .outOfRange ↔ outOfRange s.config r.address r.count = true) ∧
      (outOfRange s.config r.address r.count = true → t.dst = r.buffer) ∧ t.dst.drop r.count = r.buffer.drop r.count ∧
      ∃ tr, t.trace = s.trace ++ tr ∧ IsReadTrace s.config r.address r.count (t.dst.take r.count) tr

/-- Every trace of 44_host_operations R195 for `write` is one the sequencer runs, given the bytes and durations it needs from a device
that may return anything: `write` ends, in every way the rules allow. -/
def Obligations.WriteTraceComplete : Prop :=
  ∀ (s : State) (A N : Nat) (source : List Byte) (rest : List Request) (tr : List Event), s.phase = .idle → s.schedule = [] →
    s.device.kind = .arbitrary → A < 2 ^ s.config.operandWidth → N < 2 ^ s.config.operandWidth → N ≤ source.length →
    s.requests = ⟨2#2, A, N, source⟩ :: rest → IsWriteTrace s.config A N source tr →
    ∃ replies delays n t, EndsIn n { s with replies := replies, delays := delays } t ∧ t.trace = s.trace ++ tr

/-- The same for `read`: every trace of its set is run, and the destination buffer ends with the bytes of that trace. -/
def Obligations.ReadTraceComplete : Prop :=
  ∀ (s : State) (A N : Nat) (destination v : List Byte) (rest : List Request) (tr : List Event), s.phase = .idle →
    s.schedule = [] → s.device.kind = .arbitrary → A < 2 ^ s.config.operandWidth → N < 2 ^ s.config.operandWidth →
    N ≤ destination.length → s.requests = ⟨1#2, A, N, destination⟩ :: rest → IsReadTrace s.config A N v tr →
    ∃ replies delays n t, EndsIn n { s with replies := replies, delays := delays } t ∧ t.trace = s.trace ++ tr ∧
      (outOfRange s.config A N = false → t.dst = v ++ destination.drop N)

/-! ## Whole operations against the reference device -/

/-- `read` of an idle reference device ends (44_host_operations R193, 20_memory R69): in so many steps, with `Ok`, the destination
holding the bytes of the array from `A` upward and the rest of the buffer untouched, and the array as it was. -/
def Obligations.ReadDelivers : Prop :=
  ∀ (s : State) (r : Request) (rest : List Request), s.phase = .idle → s.schedule = [] → s.requests = r :: rest → r.op = 1#2 →
    r.address < 2 ^ s.config.operandWidth → r.count < 2 ^ s.config.operandWidth →
    outOfRange s.config r.address r.count = false → r.count ≤ r.buffer.length →
    s.device.kind = .reference → s.device.wip = false →
    ∃ t, EndsIn (9 + if r.count = 0 then 0 else match s.config.readFraming with | .burst => r.count + 6 | .perByte => 7 * r.count) s t ∧
      t.rstat = .ok ∧ t.requests = rest ∧ t.trace.getLast? = some (.resp .ok) ∧
      (∀ k, k < r.count → t.dst[k]? = some (s.device.mem.read (r.address + k))) ∧
      (∀ k, r.count ≤ k → t.dst[k]? = r.buffer[k]?) ∧ (∀ a, t.device.mem.read a = s.device.mem.read a)

/-- `write` within one page to an idle reference device ends (44_host_operations R194): in `N + 25` steps, with `Ok`, the bytes pending
in the device and its write cycle running, and no byte of the array changed yet: `Ok` comes before the data is committed (20_memory
R62, 70_reset_and_hazards R265). -/
def Obligations.WriteOnePage : Prop :=
  ∀ (s : State) (r : Request) (rest : List Request), s.phase = .idle → s.schedule = [] → s.requests = r :: rest → r.op = 2#2 →
    r.address < 2 ^ s.config.operandWidth → r.count < 2 ^ s.config.operandWidth →
    outOfRange s.config r.address r.count = false → 1 ≤ r.count → r.count ≤ toPageEnd s.config r.address →
    r.count ≤ r.buffer.length → s.device.kind = .reference → s.device.wip = false →
    ∃ t, EndsIn (r.count + 25) s t ∧ t.rstat = .ok ∧ t.requests = rest ∧ t.trace.getLast? = some (.resp .ok) ∧
      t.device.wip = true ∧ t.device.pend = (List.range' r.address r.count).zip r.buffer ∧
      t.cur = r.address + r.count ∧ (∀ a, t.device.mem.read a = s.device.mem.read a)

/-- There is a schedule of the controller's steps and the device's `Complete` under which a `write` in range ends with `Ok` (20_memory R71,
43_page_write_splitter R179), and after one more `Complete` every byte of `[A, A + N)` reads as the source's and every other byte as
before the write (but for bytes pending when it began). That every fair execution ends is the statement
WriteEndsWithLiveDevice. -/
def Obligations.WriteEndsUnderSomeSchedule : Prop :=
  ∀ (s : State) (r : Request) (rest : List Request), s.phase = .idle → s.requests = r :: rest → r.op = 2#2 →
    r.address < 2 ^ s.config.operandWidth → r.count < 2 ^ s.config.operandWidth →
    outOfRange s.config r.address r.count = false → r.count ≤ r.buffer.length → s.device.kind = .reference →
    s.device.mem.wf = true →
    ∃ moves n t, (∀ m ∈ moves, m = .controller ∨ m = .complete) ∧ EndsIn n { s with schedule := moves } t ∧
      t.rstat = .ok ∧ t.schedule = [] ∧ t.requests = rest ∧
      (∀ k, k < r.count → (t.device.complete.mem.read (r.address + k)) = r.buffer.getD k 0x00#8) ∧
      (s.device.wip = false → s.device.pend = [] → ∀ a, a < r.address ∨ r.address + r.count ≤ a →
        t.device.complete.mem.read a = s.device.mem.read a)

/-- Round trip (20_memory R75): with the reference device, its `Complete` coming whenever it may, after `write(A, N, B)` a following
`read(A, N, DST)` that returns leaves `DST = B`, under either framing. -/
def Obligations.RoundTrip : Prop :=
  ∀ (s t : State) (A N n : Nat) (B D : List Byte), s.phase = .idle → s.requests = [⟨2#2, A, N, B⟩, ⟨1#2, A, N, D⟩] →
    A < 2 ^ s.config.operandWidth → N < 2 ^ s.config.operandWidth → outOfRange s.config A N = false → 1 ≤ N →
    B.length = N → D.length = N → s.device.kind = .reference → s.device.mem.wf = true → Undisturbed s →
    run n s = .next t → t.phase = .idle → t.requests = [] → t.dst = B ∧ t.rstat = .ok

/-- With a device whose write cycles end, every `write` in range ends (20_memory R72, 60_exceptions R226, 43_page_write_splitter R179). In
every endless execution of controller and device moves, if the controller keeps moving and `DeviceEventuallyIdle` holds, a state is
reached in which the write has ended with `Ok`, the trace since being one of its set (44_host_operations R195). With the write cycle
then still running, if one is, at its end, every byte of `[A, A + N)` reads as the source's, and every other byte as it did before the
write, a write cycle running at its start having ended. How an endless execution is written down is the model's (log 32), and that
exchanges complete is built in (log 21). -/
def Obligations.WriteEndsWithLiveDevice : Prop :=
  ∀ (s : State) (r : Request) (rest : List Request) (moves : Nat → Move), s.phase = .idle → s.requests = r :: rest → r.op = 2#2 →
    r.address < 2 ^ s.config.operandWidth → r.count < 2 ^ s.config.operandWidth →
    outOfRange s.config r.address r.count = false → r.count ≤ r.buffer.length → s.device.kind = .reference →
    s.device.mem.wf = true →
    (∀ k, (moves k).isQuiet = true) → ControllerKeepsMoving moves → DeviceEventuallyIdle moves s →
    ∃ n t tr, playMoves moves s n = .next t ∧ t.phase = .idle ∧ t.rstat = .ok ∧ t.requests = rest ∧
      t.trace = s.trace ++ tr ∧ IsWriteTrace s.config r.address r.count r.buffer tr ∧
      (∀ k, k < r.count → t.device.complete.mem.read (r.address + k) = r.buffer.getD k 0x00#8) ∧
      (∀ a, a < r.address ∨ r.address + r.count ≤ a → t.device.complete.mem.read a = s.device.complete.mem.read a)
end

