-- ==== Sys2Proof/Laws/Device.lean ====
section
/-! SUPPORT. What the device does in each operation of the link, said once: selecting and receiving change the frame only; a deselect
answers one of four devices or a fault; the array changes in `complete` alone. -/

namespace Sys2Proof.Machine

variable (d : Device)

/-! ### WIP in the status byte -/

@[simp] theorem statusBusy_statusByte (wip : Bool) (b : Byte) : statusBusy (statusByte wip b) = wip := by
  cases wip <;> simp [statusBusy, statusByte]

/-! ### Select and receive -/

@[simp] theorem select_kind : d.select.kind = d.kind := by unfold Device.select; split <;> simp_all
@[simp] theorem select_mem : d.select.mem = d.mem := by unfold Device.select; split <;> simp_all
@[simp] theorem select_wip : d.select.wip = d.wip := by unfold Device.select; split <;> simp_all
@[simp] theorem select_pend : d.select.pend = d.pend := by unfold Device.select; split <;> simp_all
@[simp] theorem select_wel : d.select.wel = d.wel := by unfold Device.select; split <;> simp_all
theorem select_frame (h : d.kind = .reference) : d.select.frame = [] := by simp [Device.select, h]

@[simp] theorem receive_kind (o : Byte) : (d.receive o).kind = d.kind := by unfold Device.receive; split <;> simp_all
@[simp] theorem receive_mem (o : Byte) : (d.receive o).mem = d.mem := by unfold Device.receive; split <;> simp_all
@[simp] theorem receive_wip (o : Byte) : (d.receive o).wip = d.wip := by unfold Device.receive; split <;> simp_all
@[simp] theorem receive_pend (o : Byte) : (d.receive o).pend = d.pend := by unfold Device.receive; split <;> simp_all
@[simp] theorem receive_wel (o : Byte) : (d.receive o).wel = d.wel := by unfold Device.receive; split <;> simp_all
theorem receive_frame (h : d.kind = .reference) (o : Byte) : (d.receive o).frame = d.frame ++ [o] := by
  simp [Device.receive, h]

/-! ### Deselect -/

/-- What the reference device can do with a complete frame. -/
theorem takeFrame_cases {c : Config} {d d' : Device} {frame : List Byte} (h : d.takeFrame c frame = .ok d') :
    d' = d ∨ (frame = [opcodeWren] ∧ d.wip = false ∧ d' = { d with wel := true }) ∨
    (frame = [opcodeWrdi] ∧ d.wip = false ∧ d' = { d with wel := false }) ∨
    (∃ hi lo data, frame = opcodeWrite :: hi :: lo :: data ∧ d.wip = false ∧ d.wel = true ∧
      writeAccepted c (joinAddr hi lo).toNat data.length = true ∧
      d' = { d with pend := cellsFrom (joinAddr hi lo).toNat data, wip := true }) := by
  unfold Device.takeFrame at h
  split at h
  · exact .inl (by simpa using h.symm)
  · rename_i o rest
    split at h
    · exact .inl (by simpa using h.symm)
    split at h
    · exact .inl (by simpa using h.symm)
    rename_i hw
    have hwip : d.wip = false := by simpa using hw
    split at h
    · rename_i ho
      split at h
      · rename_i hr
        exact .inr (.inl ⟨by simp [ho, hr], hwip, by simpa using h.symm⟩)
      · simp at h
    split at h
    · rename_i ho
      split at h
      · rename_i hr
        exact .inr (.inr (.inl ⟨by simp [ho, hr], hwip, by simpa using h.symm⟩))
      · simp at h
    split at h
    · rename_i ho
      unfold Device.takeWrite at h
      split at h
      · rename_i hi lo data
        split at h
        · exact .inl (by simpa using h.symm)
        rename_i hl
        split at h
        · rename_i ha
          exact .inr (.inr (.inr ⟨hi, lo, data, by simp [ho], hwip, by simpa using hl, ha, by simpa using h.symm⟩))
        · simp at h
      · split at h
        · exact .inl (by simpa using h.symm)
        · simp at h
    · simp at h

/-- A deselect of the reference device. -/
theorem deselect_reference {c : Config} {d d' : Device} (hk : d.kind = .reference) (h : d.deselect c = .ok d') :
    ∃ e, d.takeFrame c d.frame = .ok e ∧ d' = { e with frame := [] } := by
  unfold Device.deselect at h
  rw [hk] at h
  simp only at h
  split at h
  · rename_i e he
    exact ⟨e, he, by simpa using h.symm⟩
  · simp at h

/-- A deselect of any other device. -/
@[simp] theorem deselect_arbitrary {c : Config} {d : Device} (hk : d.kind = .arbitrary) : d.deselect c = .ok d := by
  simp [Device.deselect, hk]

theorem takeFrame_kind {c : Config} {d d' : Device} {frame : List Byte} (h : d.takeFrame c frame = .ok d') :
    d'.kind = d.kind := by
  rcases takeFrame_cases h with rfl | ⟨-, -, rfl⟩ | ⟨-, -, rfl⟩ | ⟨_, _, _, -, -, -, -, rfl⟩ <;> rfl

theorem takeFrame_mem {c : Config} {d d' : Device} {frame : List Byte} (h : d.takeFrame c frame = .ok d') :
    d'.mem = d.mem := by
  rcases takeFrame_cases h with rfl | ⟨-, -, rfl⟩ | ⟨-, -, rfl⟩ | ⟨_, _, _, -, -, -, -, rfl⟩ <;> rfl

theorem deselect_kind {c : Config} {d d' : Device} (h : d.deselect c = .ok d') : d'.kind = d.kind := by
  cases hk : d.kind with
  | reference =>
    obtain ⟨e, he, rfl⟩ := deselect_reference hk h
    simpa [hk] using takeFrame_kind he
  | arbitrary =>
    rw [deselect_arbitrary hk] at h
    cases h
    exact hk

theorem deselect_mem {c : Config} {d d' : Device} (h : d.deselect c = .ok d') : d'.mem = d.mem := by
  cases hk : d.kind with
  | reference =>
    obtain ⟨e, he, rfl⟩ := deselect_reference hk h
    simpa using takeFrame_mem he
  | arbitrary =>
    rw [deselect_arbitrary hk] at h
    cases h
    rfl

/-! ### Complete -/

theorem complete_of_busy (hk : d.kind = .reference) (hw : d.wip = true) :
    d.complete = { d with mem := d.mem.writeAll d.pend, pend := [], wip := false, wel := false } := by
  simp [Device.complete, hk, hw]

theorem complete_of_idle (hw : d.wip = false) : d.complete = d := by
  unfold Device.complete
  split <;> simp_all

theorem complete_of_arbitrary (hk : d.kind = .arbitrary) : d.complete = d := by
  unfold Device.complete
  split <;> simp_all

@[simp] theorem complete_kind : d.complete.kind = d.kind := by unfold Device.complete; split <;> simp_all
@[simp] theorem complete_frame : d.complete.frame = d.frame := by unfold Device.complete; split <;> simp_all

/-! ### Cells of a frame -/

theorem mem_cellsFrom {a : Nat} {data : List Byte} {x : Host.Cell} (h : x ∈ cellsFrom a data) :
    a ≤ x.1 ∧ x.1 < a + data.length := by
  induction data generalizing a with
  | nil => simp [cellsFrom] at h
  | cons b rest ih =>
    simp only [cellsFrom, List.mem_cons] at h
    rcases h with rfl | h
    · simp
    · have := ih h
      simp only [List.length_cons]
      omega

end Sys2Proof.Machine
end

