-- ==== Sys2Proof/Laws/Rows.lean ====
section
/-! SUPPORT. The controller's step in each of the 33 phases: the rows of 44_host_operations R198, so that no later proof unfolds the
fetch. -/

namespace Sys2Proof.Machine

variable {s : State}

/-! ### Frames in flight parse -/

theorem parseFrame_wren : parseFrame [opcodeWren] = .ok .wren := by decide

theorem parseFrame_wrdi : parseFrame [opcodeWrdi] = .ok .wrdi := by decide

theorem parseFrame_rdsr (d : Byte) : parseFrame [opcodeRdsr, d] = .ok .rdsr := by
  simp [parseFrame, parseF1, opcodeRdsr, opcodeWrite, opcodeRead, opcodeWrdi]

theorem joinAddr_hi8_lo8 (a : Addr) : joinAddr (hi8 a) (lo8 a) = a := by
  unfold joinAddr hi8 lo8
  ext k hk
  simp only [BitVec.getElem_append, BitVec.getElem_extractLsb']
  split <;> rename_i h
  · simp [BitVec.getLsbD_eq_getElem hk]
  · have : 8 + (k - 8) = k := by omega
    simp [this, BitVec.getLsbD_eq_getElem hk]

theorem parseFrame_readFrame (c : Config) (a : Addr) (m : Nat) : parseFrame (readFrame c a m) = .ok (.read a m) := by
  simp [parseFrame, readFrame, parseAddressed, joinAddr_hi8_lo8, opcodeRead, opcodeWrite]

theorem parseFrame_writeFrame (a : Addr) (data : List Byte) : parseFrame (writeFrame a data) = .ok (.write a data) := by
  simp [parseFrame, writeFrame, parseAddressed, joinAddr_hi8_lo8, opcodeWrite]

/-! ### The port -/

theorem controllerStep_of_fetch {i : Instr} (h : fetch s = .run i) : controllerStep s = exec i s := by
  simp [controllerStep, h]

theorem fetch_port (h : s.phase = .uninit ∨ s.phase = .idle) : fetch s = decodePort s := by
  rcases h with h | h <;> simp [fetch, h]

/-! ### The commands -/

theorem fetch_frame {bytes : List Byte} {i : Instr} (h : frameInFlight s = some bytes) (hp : parseFrame bytes = .ok i) :
    fetch s = .run i := by
  unfold fetch
  split
  · simp_all [frameInFlight]
  · simp_all [frameInFlight]
  · simp [h, hp]

theorem fetch_latched (h : frameInFlight s = none) (hu : s.phase ≠ .uninit) (hi : s.phase ≠ .idle) :
    fetch s = .run (latchedOperation s) := by
  unfold fetch
  split
  · simp_all
  · simp_all
  · simp [h]

theorem controllerStep_wren (h : frameInFlight s = some [opcodeWren]) : controllerStep s = execWren s := by
  rw [controllerStep_of_fetch (fetch_frame h parseFrame_wren), exec]

theorem controllerStep_wrdi (h : frameInFlight s = some [opcodeWrdi]) : controllerStep s = execWrdi s := by
  rw [controllerStep_of_fetch (fetch_frame h parseFrame_wrdi), exec]

theorem controllerStep_rdsr (h : frameInFlight s = some [opcodeRdsr, s.config.dummyByte]) : controllerStep s = execRdsr s := by
  rw [controllerStep_of_fetch (fetch_frame h (parseFrame_rdsr _)), exec]

theorem controllerStep_read
    (h : frameInFlight s = some (readFrame s.config (addressField (s.A + s.i)) (pendingPositions s))) :
    controllerStep s = execRead (addressField (s.A + s.i)) (pendingPositions s) s := by
  rw [controllerStep_of_fetch (fetch_frame h (parseFrame_readFrame _ _ _)), exec]

theorem controllerStep_write (h : frameInFlight s = some (writeFrame (addressField s.cur) (pendingData s))) :
    controllerStep s = execWrite (addressField s.cur) (pendingData s) s := by
  rw [controllerStep_of_fetch (fetch_frame h (parseFrame_writeFrame _ _)), exec]

theorem controllerStep_latched (h : frameInFlight s = none) (hu : s.phase ≠ .uninit) (hi : s.phase ≠ .idle) :
    controllerStep s = exec (latchedOperation s) s :=
  controllerStep_of_fetch (fetch_latched h hu hi)

/-! ### The rows -/

theorem row_check (h : s.phase = .check) : controllerStep s = checkRow s := by
  rw [controllerStep_latched (by simp [frameInFlight, h]) (by simp [h]) (by simp [h]), latchedOperation]
  cases s.op <;> simp [exec, execHostRead, execHostWrite, h]

theorem row_split (h : s.phase = .split) : controllerStep s = splitRow s := by
  rw [controllerStep_latched (by simp [frameInFlight, h]) (by simp [h]) (by simp [h]), latchedOperation]
  cases s.op <;> simp [exec, execHostRead, execHostWrite, h]

theorem row_pollTest (h : s.phase = .pollTest) : controllerStep s = pollTestRow s := by
  rw [controllerStep_latched (by simp [frameInFlight, h]) (by simp [h]) (by simp [h]), latchedOperation]
  cases s.op <;> simp [exec, execHostRead, execHostWrite, h]

theorem row_resp (h : s.phase = .resp) : controllerStep s = respRow s := by
  rw [controllerStep_latched (by simp [frameInFlight, h]) (by simp [h]) (by simp [h]), latchedOperation]
  cases s.op <;> simp [exec, execHostRead, execHostWrite, h]

theorem row_pollSel (h : s.phase = .pollSel) : controllerStep s = selectStep .pollOp s := by
  rw [controllerStep_rdsr (by simp only [frameInFlight, h])]; simp [execRdsr, h]

theorem row_pollOp (h : s.phase = .pollOp) : controllerStep s = sendStep opcodeRdsr .pollDummy s := by
  rw [controllerStep_rdsr (by simp only [frameInFlight, h])]; simp [execRdsr, h]

theorem row_pollDummy (h : s.phase = .pollDummy) : controllerStep s =
    .next { exchange s s.config.dummyByte with sr := received s s.config.dummyByte, phase := .pollDesel } := by
  rw [controllerStep_rdsr (by simp only [frameInFlight, h])]; simp [execRdsr, h]

theorem row_pollDesel (h : s.phase = .pollDesel) : controllerStep s = deselectStep .pollHold s := by
  rw [controllerStep_rdsr (by simp only [frameInFlight, h])]; simp [execRdsr, h]

theorem row_pollHold (h : s.phase = .pollHold) : controllerStep s = holdStep .pollTest s := by
  rw [controllerStep_rdsr (by simp only [frameInFlight, h])]; simp [execRdsr, h]

theorem row_rdSel (h : s.phase = .rdSel) : controllerStep s = selectStep .rdOp s := by
  rw [controllerStep_read (by simp only [frameInFlight, h])]; simp [execRead, h]

theorem row_rdOp (h : s.phase = .rdOp) : controllerStep s = sendStep opcodeRead .rdAh s := by
  rw [controllerStep_read (by simp only [frameInFlight, h])]; simp [execRead, h]

theorem row_rdAh (h : s.phase = .rdAh) : controllerStep s = sendStep (hi8 (addressField (s.A + s.i))) .rdAl s := by
  rw [controllerStep_read (by simp only [frameInFlight, h])]; simp [execRead, h]

theorem row_rdAl (h : s.phase = .rdAl) : controllerStep s = sendStep (lo8 (addressField (s.A + s.i))) .rdData s := by
  rw [controllerStep_read (by simp only [frameInFlight, h])]; simp [execRead, h]

theorem row_rdData (h : s.phase = .rdData) : controllerStep s = readDataRow (pendingPositions s) s := by
  rw [controllerStep_read (by simp only [frameInFlight, h])]; simp [execRead, h]

theorem row_rdDesel (h : s.phase = .rdDesel) : controllerStep s = deselectStep .rdHold s := by
  rw [controllerStep_read (by simp only [frameInFlight, h])]; simp [execRead, h]

theorem row_rdHold (h : s.phase = .rdHold) : controllerStep s = readHoldRow s := by
  rw [controllerStep_read (by simp only [frameInFlight, h])]; simp [execRead, h]

theorem row_wrenSel (h : s.phase = .wrenSel) : controllerStep s = selectStep .wrenOp s := by
  rw [controllerStep_wren (by simp [frameInFlight, h])]; simp [execWren, h]

theorem row_wrenOp (h : s.phase = .wrenOp) : controllerStep s = sendStep opcodeWren .wrenDesel s := by
  rw [controllerStep_wren (by simp [frameInFlight, h])]; simp [execWren, h]

theorem row_wrenDesel (h : s.phase = .wrenDesel) : controllerStep s = deselectStep .wrenHold s := by
  rw [controllerStep_wren (by simp [frameInFlight, h])]; simp [execWren, h]

theorem row_wrenHold (h : s.phase = .wrenHold) : controllerStep s = holdStep .wrSel s := by
  rw [controllerStep_wren (by simp [frameInFlight, h])]; simp [execWren, h]

theorem row_wrSel (h : s.phase = .wrSel) : controllerStep s = selectStep .wrOp s := by
  rw [controllerStep_write (by simp only [frameInFlight, h])]; simp [execWrite, h]

theorem row_wrOp (h : s.phase = .wrOp) : controllerStep s = sendStep opcodeWrite .wrAh s := by
  rw [controllerStep_write (by simp only [frameInFlight, h])]; simp [execWrite, h]

theorem row_wrAh (h : s.phase = .wrAh) : controllerStep s = sendStep (hi8 (addressField s.cur)) .wrAl s := by
  rw [controllerStep_write (by simp only [frameInFlight, h])]; simp [execWrite, h]

theorem row_wrAl (h : s.phase = .wrAl) : controllerStep s =
    .next { exchange s (lo8 (addressField s.cur)) with i := 0, phase := .wrData } := by
  rw [controllerStep_write (by simp only [frameInFlight, h])]; simp [execWrite, h]

theorem row_wrData (h : s.phase = .wrData) : controllerStep s = writeDataRow (pendingData s) s := by
  rw [controllerStep_write (by simp only [frameInFlight, h])]; simp [execWrite, h]

theorem row_wrDesel (h : s.phase = .wrDesel) : controllerStep s = deselectStep .wrHold s := by
  rw [controllerStep_write (by simp only [frameInFlight, h])]; simp [execWrite, h]

theorem row_wrHold (h : s.phase = .wrHold) : controllerStep s = holdStep .wrdiSel s := by
  rw [controllerStep_write (by simp only [frameInFlight, h])]; simp [execWrite, h]

theorem row_wrdiSel (h : s.phase = .wrdiSel) : controllerStep s = selectStep .wrdiOp s := by
  rw [controllerStep_wrdi (by simp [frameInFlight, h])]; simp [execWrdi, h]

theorem row_wrdiOp (h : s.phase = .wrdiOp) : controllerStep s = sendStep opcodeWrdi .wrdiDesel s := by
  rw [controllerStep_wrdi (by simp [frameInFlight, h])]; simp [execWrdi, h]

theorem row_wrdiDesel (h : s.phase = .wrdiDesel) : controllerStep s = deselectStep .wrdiHold s := by
  rw [controllerStep_wrdi (by simp [frameInFlight, h])]; simp [execWrdi, h]

theorem row_wrdiHold (h : s.phase = .wrdiHold) : controllerStep s =
    .next { hold s with cur := s.cur + s.n, phase := .split } := by
  rw [controllerStep_wrdi (by simp [frameInFlight, h])]; simp [execWrdi, h]

end Sys2Proof.Machine
end

