-- ==== Sys2Proof/Laws/State.lean ====
section
/-! SUPPORT. One lemma per field for each shared operation that changes the state, so that no later proof unfolds a record update. -/

namespace Sys2Proof.Machine

variable (s : State)

/-! ### emit -/

@[simp] theorem emit_config (e : Event) : (s.emit e).config = s.config := rfl
@[simp] theorem emit_phase (e : Event) : (s.emit e).phase = s.phase := rfl
@[simp] theorem emit_csSel (e : Event) : (s.emit e).csSel = s.csSel := rfl
@[simp] theorem emit_linkEn (e : Event) : (s.emit e).linkEn = s.linkEn := rfl
@[simp] theorem emit_op (e : Event) : (s.emit e).op = s.op := rfl
@[simp] theorem emit_A (e : Event) : (s.emit e).A = s.A := rfl
@[simp] theorem emit_N (e : Event) : (s.emit e).N = s.N := rfl
@[simp] theorem emit_cur (e : Event) : (s.emit e).cur = s.cur := rfl
@[simp] theorem emit_n (e : Event) : (s.emit e).n = s.n := rfl
@[simp] theorem emit_i (e : Event) : (s.emit e).i = s.i := rfl
@[simp] theorem emit_sr (e : Event) : (s.emit e).sr = s.sr := rfl
@[simp] theorem emit_rstat (e : Event) : (s.emit e).rstat = s.rstat := rfl
@[simp] theorem emit_requests (e : Event) : (s.emit e).requests = s.requests := rfl
@[simp] theorem emit_src (e : Event) : (s.emit e).src = s.src := rfl
@[simp] theorem emit_dst (e : Event) : (s.emit e).dst = s.dst := rfl
@[simp] theorem emit_device (e : Event) : (s.emit e).device = s.device := rfl
@[simp] theorem emit_schedule (e : Event) : (s.emit e).schedule = s.schedule := rfl
@[simp] theorem emit_replies (e : Event) : (s.emit e).replies = s.replies := rfl
@[simp] theorem emit_delays (e : Event) : (s.emit e).delays = s.delays := rfl
@[simp] theorem emit_draws (e : Event) : (s.emit e).draws = s.draws := rfl
@[simp] theorem emit_trace (e : Event) : (s.emit e).trace = s.trace ++ [e] := rfl
@[simp] theorem emit_recordedFault (e : Event) : (s.emit e).recordedFault = s.recordedFault := rfl

/-! ### goto -/

@[simp] theorem goto_config (p : Phase) : (s.goto p).config = s.config := rfl
@[simp] theorem goto_phase (p : Phase) : (s.goto p).phase = p := rfl
@[simp] theorem goto_csSel (p : Phase) : (s.goto p).csSel = s.csSel := rfl
@[simp] theorem goto_linkEn (p : Phase) : (s.goto p).linkEn = s.linkEn := rfl
@[simp] theorem goto_op (p : Phase) : (s.goto p).op = s.op := rfl
@[simp] theorem goto_A (p : Phase) : (s.goto p).A = s.A := rfl
@[simp] theorem goto_N (p : Phase) : (s.goto p).N = s.N := rfl
@[simp] theorem goto_cur (p : Phase) : (s.goto p).cur = s.cur := rfl
@[simp] theorem goto_n (p : Phase) : (s.goto p).n = s.n := rfl
@[simp] theorem goto_i (p : Phase) : (s.goto p).i = s.i := rfl
@[simp] theorem goto_sr (p : Phase) : (s.goto p).sr = s.sr := rfl
@[simp] theorem goto_rstat (p : Phase) : (s.goto p).rstat = s.rstat := rfl
@[simp] theorem goto_requests (p : Phase) : (s.goto p).requests = s.requests := rfl
@[simp] theorem goto_src (p : Phase) : (s.goto p).src = s.src := rfl
@[simp] theorem goto_dst (p : Phase) : (s.goto p).dst = s.dst := rfl
@[simp] theorem goto_device (p : Phase) : (s.goto p).device = s.device := rfl
@[simp] theorem goto_schedule (p : Phase) : (s.goto p).schedule = s.schedule := rfl
@[simp] theorem goto_replies (p : Phase) : (s.goto p).replies = s.replies := rfl
@[simp] theorem goto_delays (p : Phase) : (s.goto p).delays = s.delays := rfl
@[simp] theorem goto_draws (p : Phase) : (s.goto p).draws = s.draws := rfl
@[simp] theorem goto_trace (p : Phase) : (s.goto p).trace = s.trace := rfl
@[simp] theorem goto_recordedFault (p : Phase) : (s.goto p).recordedFault = s.recordedFault := rfl

/-! ### byteDrawn -/

@[simp] theorem byteDrawn_config : (s.byteDrawn).config = s.config := by unfold State.byteDrawn; split <;> rfl
@[simp] theorem byteDrawn_phase : (s.byteDrawn).phase = s.phase := by unfold State.byteDrawn; split <;> rfl
@[simp] theorem byteDrawn_csSel : (s.byteDrawn).csSel = s.csSel := by unfold State.byteDrawn; split <;> rfl
@[simp] theorem byteDrawn_linkEn : (s.byteDrawn).linkEn = s.linkEn := by unfold State.byteDrawn; split <;> rfl
@[simp] theorem byteDrawn_op : (s.byteDrawn).op = s.op := by unfold State.byteDrawn; split <;> rfl
@[simp] theorem byteDrawn_A : (s.byteDrawn).A = s.A := by unfold State.byteDrawn; split <;> rfl
@[simp] theorem byteDrawn_N : (s.byteDrawn).N = s.N := by unfold State.byteDrawn; split <;> rfl
@[simp] theorem byteDrawn_cur : (s.byteDrawn).cur = s.cur := by unfold State.byteDrawn; split <;> rfl
@[simp] theorem byteDrawn_n : (s.byteDrawn).n = s.n := by unfold State.byteDrawn; split <;> rfl
@[simp] theorem byteDrawn_i : (s.byteDrawn).i = s.i := by unfold State.byteDrawn; split <;> rfl
@[simp] theorem byteDrawn_sr : (s.byteDrawn).sr = s.sr := by unfold State.byteDrawn; split <;> rfl
@[simp] theorem byteDrawn_rstat : (s.byteDrawn).rstat = s.rstat := by unfold State.byteDrawn; split <;> rfl
@[simp] theorem byteDrawn_requests : (s.byteDrawn).requests = s.requests := by unfold State.byteDrawn; split <;> rfl
@[simp] theorem byteDrawn_src : (s.byteDrawn).src = s.src := by unfold State.byteDrawn; split <;> rfl
@[simp] theorem byteDrawn_dst : (s.byteDrawn).dst = s.dst := by unfold State.byteDrawn; split <;> rfl
@[simp] theorem byteDrawn_device : (s.byteDrawn).device = s.device := by unfold State.byteDrawn; split <;> rfl
@[simp] theorem byteDrawn_schedule : (s.byteDrawn).schedule = s.schedule := by unfold State.byteDrawn; split <;> rfl
@[simp] theorem byteDrawn_delays : (s.byteDrawn).delays = s.delays := by unfold State.byteDrawn; split <;> rfl
@[simp] theorem byteDrawn_trace : (s.byteDrawn).trace = s.trace := by unfold State.byteDrawn; split <;> rfl
@[simp] theorem byteDrawn_recordedFault : (s.byteDrawn).recordedFault = s.recordedFault := by unfold State.byteDrawn; split <;> rfl

/-! ### delayDrawn -/

@[simp] theorem delayDrawn_config : (s.delayDrawn).config = s.config := by unfold State.delayDrawn; split <;> rfl
@[simp] theorem delayDrawn_phase : (s.delayDrawn).phase = s.phase := by unfold State.delayDrawn; split <;> rfl
@[simp] theorem delayDrawn_csSel : (s.delayDrawn).csSel = s.csSel := by unfold State.delayDrawn; split <;> rfl
@[simp] theorem delayDrawn_linkEn : (s.delayDrawn).linkEn = s.linkEn := by unfold State.delayDrawn; split <;> rfl
@[simp] theorem delayDrawn_op : (s.delayDrawn).op = s.op := by unfold State.delayDrawn; split <;> rfl
@[simp] theorem delayDrawn_A : (s.delayDrawn).A = s.A := by unfold State.delayDrawn; split <;> rfl
@[simp] theorem delayDrawn_N : (s.delayDrawn).N = s.N := by unfold State.delayDrawn; split <;> rfl
@[simp] theorem delayDrawn_cur : (s.delayDrawn).cur = s.cur := by unfold State.delayDrawn; split <;> rfl
@[simp] theorem delayDrawn_n : (s.delayDrawn).n = s.n := by unfold State.delayDrawn; split <;> rfl
@[simp] theorem delayDrawn_i : (s.delayDrawn).i = s.i := by unfold State.delayDrawn; split <;> rfl
@[simp] theorem delayDrawn_sr : (s.delayDrawn).sr = s.sr := by unfold State.delayDrawn; split <;> rfl
@[simp] theorem delayDrawn_rstat : (s.delayDrawn).rstat = s.rstat := by unfold State.delayDrawn; split <;> rfl
@[simp] theorem delayDrawn_requests : (s.delayDrawn).requests = s.requests := by unfold State.delayDrawn; split <;> rfl
@[simp] theorem delayDrawn_src : (s.delayDrawn).src = s.src := by unfold State.delayDrawn; split <;> rfl
@[simp] theorem delayDrawn_dst : (s.delayDrawn).dst = s.dst := by unfold State.delayDrawn; split <;> rfl
@[simp] theorem delayDrawn_device : (s.delayDrawn).device = s.device := by unfold State.delayDrawn; split <;> rfl
@[simp] theorem delayDrawn_schedule : (s.delayDrawn).schedule = s.schedule := by unfold State.delayDrawn; split <;> rfl
@[simp] theorem delayDrawn_replies : (s.delayDrawn).replies = s.replies := by unfold State.delayDrawn; split <;> rfl
@[simp] theorem delayDrawn_trace : (s.delayDrawn).trace = s.trace := by unfold State.delayDrawn; split <;> rfl
@[simp] theorem delayDrawn_recordedFault : (s.delayDrawn).recordedFault = s.recordedFault := by unfold State.delayDrawn; split <;> rfl

/-! ### exchangeDrawn -/

@[simp] theorem exchangeDrawn_config (o : Byte) : (exchangeDrawn s o).config = s.config := by unfold exchangeDrawn; split <;> simp
@[simp] theorem exchangeDrawn_phase (o : Byte) : (exchangeDrawn s o).phase = s.phase := by unfold exchangeDrawn; split <;> simp
@[simp] theorem exchangeDrawn_csSel (o : Byte) : (exchangeDrawn s o).csSel = s.csSel := by unfold exchangeDrawn; split <;> simp
@[simp] theorem exchangeDrawn_linkEn (o : Byte) : (exchangeDrawn s o).linkEn = s.linkEn := by unfold exchangeDrawn; split <;> simp
@[simp] theorem exchangeDrawn_op (o : Byte) : (exchangeDrawn s o).op = s.op := by unfold exchangeDrawn; split <;> simp
@[simp] theorem exchangeDrawn_A (o : Byte) : (exchangeDrawn s o).A = s.A := by unfold exchangeDrawn; split <;> simp
@[simp] theorem exchangeDrawn_N (o : Byte) : (exchangeDrawn s o).N = s.N := by unfold exchangeDrawn; split <;> simp
@[simp] theorem exchangeDrawn_cur (o : Byte) : (exchangeDrawn s o).cur = s.cur := by unfold exchangeDrawn; split <;> simp
@[simp] theorem exchangeDrawn_n (o : Byte) : (exchangeDrawn s o).n = s.n := by unfold exchangeDrawn; split <;> simp
@[simp] theorem exchangeDrawn_i (o : Byte) : (exchangeDrawn s o).i = s.i := by unfold exchangeDrawn; split <;> simp
@[simp] theorem exchangeDrawn_sr (o : Byte) : (exchangeDrawn s o).sr = s.sr := by unfold exchangeDrawn; split <;> simp
@[simp] theorem exchangeDrawn_rstat (o : Byte) : (exchangeDrawn s o).rstat = s.rstat := by unfold exchangeDrawn; split <;> simp
@[simp] theorem exchangeDrawn_requests (o : Byte) : (exchangeDrawn s o).requests = s.requests := by unfold exchangeDrawn; split <;> simp
@[simp] theorem exchangeDrawn_src (o : Byte) : (exchangeDrawn s o).src = s.src := by unfold exchangeDrawn; split <;> simp
@[simp] theorem exchangeDrawn_dst (o : Byte) : (exchangeDrawn s o).dst = s.dst := by unfold exchangeDrawn; split <;> simp
@[simp] theorem exchangeDrawn_device (o : Byte) : (exchangeDrawn s o).device = s.device := by unfold exchangeDrawn; split <;> simp
@[simp] theorem exchangeDrawn_schedule (o : Byte) : (exchangeDrawn s o).schedule = s.schedule := by unfold exchangeDrawn; split <;> simp
@[simp] theorem exchangeDrawn_delays (o : Byte) : (exchangeDrawn s o).delays = s.delays := by unfold exchangeDrawn; split <;> simp
@[simp] theorem exchangeDrawn_trace (o : Byte) : (exchangeDrawn s o).trace = s.trace := by unfold exchangeDrawn; split <;> simp
@[simp] theorem exchangeDrawn_recordedFault (o : Byte) : (exchangeDrawn s o).recordedFault = s.recordedFault := by unfold exchangeDrawn; split <;> simp

/-! ### selectDevice -/

@[simp] theorem selectDevice_config : (selectDevice s).config = s.config := rfl
@[simp] theorem selectDevice_phase : (selectDevice s).phase = s.phase := rfl
@[simp] theorem selectDevice_csSel : (selectDevice s).csSel = true := rfl
@[simp] theorem selectDevice_linkEn : (selectDevice s).linkEn = true := rfl
@[simp] theorem selectDevice_op : (selectDevice s).op = s.op := rfl
@[simp] theorem selectDevice_A : (selectDevice s).A = s.A := rfl
@[simp] theorem selectDevice_N : (selectDevice s).N = s.N := rfl
@[simp] theorem selectDevice_cur : (selectDevice s).cur = s.cur := rfl
@[simp] theorem selectDevice_n : (selectDevice s).n = s.n := rfl
@[simp] theorem selectDevice_i : (selectDevice s).i = s.i := rfl
@[simp] theorem selectDevice_sr : (selectDevice s).sr = s.sr := rfl
@[simp] theorem selectDevice_rstat : (selectDevice s).rstat = s.rstat := rfl
@[simp] theorem selectDevice_requests : (selectDevice s).requests = s.requests := rfl
@[simp] theorem selectDevice_src : (selectDevice s).src = s.src := rfl
@[simp] theorem selectDevice_dst : (selectDevice s).dst = s.dst := rfl
@[simp] theorem selectDevice_device : (selectDevice s).device = s.device.select := rfl
@[simp] theorem selectDevice_schedule : (selectDevice s).schedule = s.schedule := rfl
@[simp] theorem selectDevice_replies : (selectDevice s).replies = s.replies := rfl
@[simp] theorem selectDevice_delays : (selectDevice s).delays = s.delays := rfl
@[simp] theorem selectDevice_draws : (selectDevice s).draws = s.draws := rfl
@[simp] theorem selectDevice_trace : (selectDevice s).trace = s.trace ++ [.sel] := rfl
@[simp] theorem selectDevice_recordedFault : (selectDevice s).recordedFault = s.recordedFault := rfl

/-! ### exchange -/

@[simp] theorem exchange_config (o : Byte) : (exchange s o).config = s.config := by simp [exchange]
@[simp] theorem exchange_phase (o : Byte) : (exchange s o).phase = s.phase := by simp [exchange]
@[simp] theorem exchange_csSel (o : Byte) : (exchange s o).csSel = s.csSel := by simp [exchange]
@[simp] theorem exchange_linkEn (o : Byte) : (exchange s o).linkEn = s.linkEn := by simp [exchange]
@[simp] theorem exchange_op (o : Byte) : (exchange s o).op = s.op := by simp [exchange]
@[simp] theorem exchange_A (o : Byte) : (exchange s o).A = s.A := by simp [exchange]
@[simp] theorem exchange_N (o : Byte) : (exchange s o).N = s.N := by simp [exchange]
@[simp] theorem exchange_cur (o : Byte) : (exchange s o).cur = s.cur := by simp [exchange]
@[simp] theorem exchange_n (o : Byte) : (exchange s o).n = s.n := by simp [exchange]
@[simp] theorem exchange_i (o : Byte) : (exchange s o).i = s.i := by simp [exchange]
@[simp] theorem exchange_sr (o : Byte) : (exchange s o).sr = s.sr := by simp [exchange]
@[simp] theorem exchange_rstat (o : Byte) : (exchange s o).rstat = s.rstat := by simp [exchange]
@[simp] theorem exchange_requests (o : Byte) : (exchange s o).requests = s.requests := by simp [exchange]
@[simp] theorem exchange_src (o : Byte) : (exchange s o).src = s.src := by simp [exchange]
@[simp] theorem exchange_dst (o : Byte) : (exchange s o).dst = s.dst := by simp [exchange]
@[simp] theorem exchange_device (o : Byte) : (exchange s o).device = s.device.receive o := rfl
@[simp] theorem exchange_schedule (o : Byte) : (exchange s o).schedule = s.schedule := by simp [exchange]
@[simp] theorem exchange_replies (o : Byte) : (exchange s o).replies = (exchangeDrawn s o).replies := rfl
@[simp] theorem exchange_delays (o : Byte) : (exchange s o).delays = s.delays := by simp [exchange]
@[simp] theorem exchange_draws (o : Byte) : (exchange s o).draws = (exchangeDrawn s o).draws := rfl
@[simp] theorem exchange_trace (o : Byte) : (exchange s o).trace = s.trace ++ [.xfer o (received s o)] := rfl
@[simp] theorem exchange_recordedFault (o : Byte) : (exchange s o).recordedFault = s.recordedFault := by simp [exchange]

/-! ### hold -/

@[simp] theorem hold_config : (hold s).config = s.config := by simp [hold]
@[simp] theorem hold_phase : (hold s).phase = s.phase := by simp [hold]
@[simp] theorem hold_csSel : (hold s).csSel = s.csSel := by simp [hold]
@[simp] theorem hold_linkEn : (hold s).linkEn = s.linkEn := by simp [hold]
@[simp] theorem hold_op : (hold s).op = s.op := by simp [hold]
@[simp] theorem hold_A : (hold s).A = s.A := by simp [hold]
@[simp] theorem hold_N : (hold s).N = s.N := by simp [hold]
@[simp] theorem hold_cur : (hold s).cur = s.cur := by simp [hold]
@[simp] theorem hold_n : (hold s).n = s.n := by simp [hold]
@[simp] theorem hold_i : (hold s).i = s.i := by simp [hold]
@[simp] theorem hold_sr : (hold s).sr = s.sr := by simp [hold]
@[simp] theorem hold_rstat : (hold s).rstat = s.rstat := by simp [hold]
@[simp] theorem hold_requests : (hold s).requests = s.requests := by simp [hold]
@[simp] theorem hold_src : (hold s).src = s.src := by simp [hold]
@[simp] theorem hold_dst : (hold s).dst = s.dst := by simp [hold]
@[simp] theorem hold_device : (hold s).device = s.device := by simp [hold]
@[simp] theorem hold_schedule : (hold s).schedule = s.schedule := by simp [hold]
@[simp] theorem hold_replies : (hold s).replies = s.replies := by simp [hold]
@[simp] theorem hold_delays : (hold s).delays = s.delayDrawn.delays := rfl
@[simp] theorem hold_draws : (hold s).draws = s.delayDrawn.draws := rfl
@[simp] theorem hold_trace : (hold s).trace = s.trace ++ [.hold (holdTime s)] := rfl
@[simp] theorem hold_recordedFault : (hold s).recordedFault = s.recordedFault := by simp [hold]

/-! ### leavePort -/

@[simp] theorem leavePort_config : (leavePort s).config = s.config := rfl
@[simp] theorem leavePort_phase : (leavePort s).phase = s.phase := rfl
@[simp] theorem leavePort_csSel : (leavePort s).csSel = s.csSel := rfl
@[simp] theorem leavePort_linkEn : (leavePort s).linkEn = s.linkEn := rfl
@[simp] theorem leavePort_op : (leavePort s).op = s.op := rfl
@[simp] theorem leavePort_A : (leavePort s).A = s.A := rfl
@[simp] theorem leavePort_N : (leavePort s).N = s.N := rfl
@[simp] theorem leavePort_cur : (leavePort s).cur = s.cur := rfl
@[simp] theorem leavePort_n : (leavePort s).n = s.n := rfl
@[simp] theorem leavePort_i : (leavePort s).i = s.i := rfl
@[simp] theorem leavePort_sr : (leavePort s).sr = s.sr := rfl
@[simp] theorem leavePort_rstat : (leavePort s).rstat = s.rstat := rfl
@[simp] theorem leavePort_requests : (leavePort s).requests = s.requests.tail := rfl
@[simp] theorem leavePort_src : (leavePort s).src = s.src := rfl
@[simp] theorem leavePort_dst : (leavePort s).dst = s.dst := rfl
@[simp] theorem leavePort_device : (leavePort s).device = s.device := rfl
@[simp] theorem leavePort_schedule : (leavePort s).schedule = s.schedule := rfl
@[simp] theorem leavePort_replies : (leavePort s).replies = s.replies := rfl
@[simp] theorem leavePort_delays : (leavePort s).delays = s.delays := rfl
@[simp] theorem leavePort_draws : (leavePort s).draws = s.draws := rfl
@[simp] theorem leavePort_trace : (leavePort s).trace = s.trace := rfl
@[simp] theorem leavePort_recordedFault : (leavePort s).recordedFault = s.recordedFault := rfl

/-! ### refuseRequest -/

@[simp] theorem refuseRequest_config : (refuseRequest s).config = s.config := rfl
@[simp] theorem refuseRequest_phase : (refuseRequest s).phase = s.phase := rfl
@[simp] theorem refuseRequest_csSel : (refuseRequest s).csSel = s.csSel := rfl
@[simp] theorem refuseRequest_linkEn : (refuseRequest s).linkEn = s.linkEn := rfl
@[simp] theorem refuseRequest_op : (refuseRequest s).op = s.op := rfl
@[simp] theorem refuseRequest_A : (refuseRequest s).A = s.A := rfl
@[simp] theorem refuseRequest_N : (refuseRequest s).N = s.N := rfl
@[simp] theorem refuseRequest_cur : (refuseRequest s).cur = s.cur := rfl
@[simp] theorem refuseRequest_n : (refuseRequest s).n = s.n := rfl
@[simp] theorem refuseRequest_i : (refuseRequest s).i = s.i := rfl
@[simp] theorem refuseRequest_sr : (refuseRequest s).sr = s.sr := rfl
@[simp] theorem refuseRequest_rstat : (refuseRequest s).rstat = s.rstat := rfl
@[simp] theorem refuseRequest_requests : (refuseRequest s).requests = s.requests.tail := rfl
@[simp] theorem refuseRequest_src : (refuseRequest s).src = s.src := rfl
@[simp] theorem refuseRequest_dst : (refuseRequest s).dst = s.dst := rfl
@[simp] theorem refuseRequest_device : (refuseRequest s).device = s.device := rfl
@[simp] theorem refuseRequest_schedule : (refuseRequest s).schedule = s.schedule := rfl
@[simp] theorem refuseRequest_replies : (refuseRequest s).replies = s.replies := rfl
@[simp] theorem refuseRequest_delays : (refuseRequest s).delays = s.delays := rfl
@[simp] theorem refuseRequest_draws : (refuseRequest s).draws = s.draws := rfl
@[simp] theorem refuseRequest_trace : (refuseRequest s).trace = s.trace := rfl
@[simp] theorem refuseRequest_recordedFault : (refuseRequest s).recordedFault = s.recordedFault := rfl

/-! ### acceptRequest -/

@[simp] theorem acceptRequest_config (o : HostOp) (a k : Nat) : (acceptRequest o a k s).config = s.config := rfl
@[simp] theorem acceptRequest_phase (o : HostOp) (a k : Nat) : (acceptRequest o a k s).phase = .check := rfl
@[simp] theorem acceptRequest_csSel (o : HostOp) (a k : Nat) : (acceptRequest o a k s).csSel = s.csSel := rfl
@[simp] theorem acceptRequest_linkEn (o : HostOp) (a k : Nat) : (acceptRequest o a k s).linkEn = s.linkEn := rfl
@[simp] theorem acceptRequest_op (o : HostOp) (a k : Nat) : (acceptRequest o a k s).op = o := rfl
@[simp] theorem acceptRequest_A (o : HostOp) (a k : Nat) : (acceptRequest o a k s).A = a := rfl
@[simp] theorem acceptRequest_N (o : HostOp) (a k : Nat) : (acceptRequest o a k s).N = k := rfl
@[simp] theorem acceptRequest_cur (o : HostOp) (a k : Nat) : (acceptRequest o a k s).cur = s.cur := rfl
@[simp] theorem acceptRequest_n (o : HostOp) (a k : Nat) : (acceptRequest o a k s).n = s.n := rfl
@[simp] theorem acceptRequest_i (o : HostOp) (a k : Nat) : (acceptRequest o a k s).i = s.i := rfl
@[simp] theorem acceptRequest_sr (o : HostOp) (a k : Nat) : (acceptRequest o a k s).sr = s.sr := rfl
@[simp] theorem acceptRequest_rstat (o : HostOp) (a k : Nat) : (acceptRequest o a k s).rstat = s.rstat := rfl
@[simp] theorem acceptRequest_requests (o : HostOp) (a k : Nat) : (acceptRequest o a k s).requests = s.requests.tail := rfl
@[simp] theorem acceptRequest_src (o : HostOp) (a k : Nat) : (acceptRequest o a k s).src = s.src := rfl
@[simp] theorem acceptRequest_dst (o : HostOp) (a k : Nat) : (acceptRequest o a k s).dst = s.dst := rfl
@[simp] theorem acceptRequest_device (o : HostOp) (a k : Nat) : (acceptRequest o a k s).device = s.device := rfl
@[simp] theorem acceptRequest_schedule (o : HostOp) (a k : Nat) : (acceptRequest o a k s).schedule = s.schedule := rfl
@[simp] theorem acceptRequest_replies (o : HostOp) (a k : Nat) : (acceptRequest o a k s).replies = s.replies := rfl
@[simp] theorem acceptRequest_delays (o : HostOp) (a k : Nat) : (acceptRequest o a k s).delays = s.delays := rfl
@[simp] theorem acceptRequest_draws (o : HostOp) (a k : Nat) : (acceptRequest o a k s).draws = s.draws := rfl
@[simp] theorem acceptRequest_trace (o : HostOp) (a k : Nat) : (acceptRequest o a k s).trace = s.trace ++ [.req o a k] := rfl
@[simp] theorem acceptRequest_recordedFault (o : HostOp) (a k : Nat) : (acceptRequest o a k s).recordedFault = s.recordedFault := rfl

/-! ### raiseOutOfRange -/

@[simp] theorem raiseOutOfRange_config : (raiseOutOfRange s).config = s.config := rfl
@[simp] theorem raiseOutOfRange_phase : (raiseOutOfRange s).phase = .resp := rfl
@[simp] theorem raiseOutOfRange_csSel : (raiseOutOfRange s).csSel = s.csSel := rfl
@[simp] theorem raiseOutOfRange_linkEn : (raiseOutOfRange s).linkEn = s.linkEn := rfl
@[simp] theorem raiseOutOfRange_op : (raiseOutOfRange s).op = s.op := rfl
@[simp] theorem raiseOutOfRange_A : (raiseOutOfRange s).A = s.A := rfl
@[simp] theorem raiseOutOfRange_N : (raiseOutOfRange s).N = s.N := rfl
@[simp] theorem raiseOutOfRange_cur : (raiseOutOfRange s).cur = s.cur := rfl
@[simp] theorem raiseOutOfRange_n : (raiseOutOfRange s).n = s.n := rfl
@[simp] theorem raiseOutOfRange_i : (raiseOutOfRange s).i = s.i := rfl
@[simp] theorem raiseOutOfRange_sr : (raiseOutOfRange s).sr = s.sr := rfl
@[simp] theorem raiseOutOfRange_rstat : (raiseOutOfRange s).rstat = .outOfRange := rfl
@[simp] theorem raiseOutOfRange_requests : (raiseOutOfRange s).requests = s.requests := rfl
@[simp] theorem raiseOutOfRange_src : (raiseOutOfRange s).src = s.src := rfl
@[simp] theorem raiseOutOfRange_dst : (raiseOutOfRange s).dst = s.dst := rfl
@[simp] theorem raiseOutOfRange_device : (raiseOutOfRange s).device = s.device := rfl
@[simp] theorem raiseOutOfRange_schedule : (raiseOutOfRange s).schedule = s.schedule := rfl
@[simp] theorem raiseOutOfRange_replies : (raiseOutOfRange s).replies = s.replies := rfl
@[simp] theorem raiseOutOfRange_delays : (raiseOutOfRange s).delays = s.delays := rfl
@[simp] theorem raiseOutOfRange_draws : (raiseOutOfRange s).draws = s.draws := rfl
@[simp] theorem raiseOutOfRange_trace : (raiseOutOfRange s).trace = s.trace := rfl
@[simp] theorem raiseOutOfRange_recordedFault : (raiseOutOfRange s).recordedFault = s.recordedFault := rfl

/-! ### respond -/

@[simp] theorem respond_config : (respond s).config = s.config := rfl
@[simp] theorem respond_phase : (respond s).phase = .idle := rfl
@[simp] theorem respond_csSel : (respond s).csSel = s.csSel := rfl
@[simp] theorem respond_linkEn : (respond s).linkEn = s.linkEn := rfl
@[simp] theorem respond_op : (respond s).op = s.op := rfl
@[simp] theorem respond_A : (respond s).A = s.A := rfl
@[simp] theorem respond_N : (respond s).N = s.N := rfl
@[simp] theorem respond_cur : (respond s).cur = s.cur := rfl
@[simp] theorem respond_n : (respond s).n = s.n := rfl
@[simp] theorem respond_i : (respond s).i = s.i := rfl
@[simp] theorem respond_sr : (respond s).sr = s.sr := rfl
@[simp] theorem respond_rstat : (respond s).rstat = s.rstat := rfl
@[simp] theorem respond_requests : (respond s).requests = s.requests := rfl
@[simp] theorem respond_src : (respond s).src = s.src := rfl
@[simp] theorem respond_dst : (respond s).dst = s.dst := rfl
@[simp] theorem respond_device : (respond s).device = s.device := rfl
@[simp] theorem respond_schedule : (respond s).schedule = s.schedule := rfl
@[simp] theorem respond_replies : (respond s).replies = s.replies := rfl
@[simp] theorem respond_delays : (respond s).delays = s.delays := rfl
@[simp] theorem respond_draws : (respond s).draws = s.draws := rfl
@[simp] theorem respond_trace : (respond s).trace = s.trace ++ [.resp s.rstat] := rfl
@[simp] theorem respond_recordedFault : (respond s).recordedFault = s.recordedFault := rfl

/-! ### resetController -/

@[simp] theorem resetController_config : (resetController s).config = s.config := rfl
@[simp] theorem resetController_phase : (resetController s).phase = .uninit := rfl
@[simp] theorem resetController_csSel : (resetController s).csSel = false := rfl
@[simp] theorem resetController_linkEn : (resetController s).linkEn = false := rfl
@[simp] theorem resetController_op : (resetController s).op = .read := rfl
@[simp] theorem resetController_A : (resetController s).A = 0 := rfl
@[simp] theorem resetController_N : (resetController s).N = 0 := rfl
@[simp] theorem resetController_cur : (resetController s).cur = 0 := rfl
@[simp] theorem resetController_n : (resetController s).n = 0 := rfl
@[simp] theorem resetController_i : (resetController s).i = 0 := rfl
@[simp] theorem resetController_sr : (resetController s).sr = 0#8 := rfl
@[simp] theorem resetController_rstat : (resetController s).rstat = .ok := rfl
@[simp] theorem resetController_requests : (resetController s).requests = s.requests := rfl
@[simp] theorem resetController_src : (resetController s).src = s.src := rfl
@[simp] theorem resetController_dst : (resetController s).dst = s.dst := rfl
@[simp] theorem resetController_device : (resetController s).device = s.device := rfl
@[simp] theorem resetController_schedule : (resetController s).schedule = s.schedule := rfl
@[simp] theorem resetController_replies : (resetController s).replies = s.replies := rfl
@[simp] theorem resetController_delays : (resetController s).delays = s.delays := rfl
@[simp] theorem resetController_draws : (resetController s).draws = s.draws := rfl
@[simp] theorem resetController_trace : (resetController s).trace = [] := rfl
@[simp] theorem resetController_recordedFault : (resetController s).recordedFault = s.recordedFault := rfl

end Sys2Proof.Machine
end

