-- ==== Sys2Proof/Laws/Step.lean ====
section
/-! SUPPORT. Everything a step can do, said once: the moves of the agents, the request port, and the rows with more than one guard. -/

namespace Sys2Proof.Machine

variable {s s' : State}

/-- Everything a step can be. -/
theorem step_cases (h : step s = .next s') :
    (∃ t, ControllersTurn s t ∧ controllerStep t = .next s') ∨
    (∃ rest, s.schedule = .complete :: rest ∧ s' = { s with schedule := rest, device := s.device.complete }) ∨
    (∃ rest, s.schedule = .reset :: rest ∧ s' = reset { s with schedule := rest }) ∨
    (∃ rest r, s.schedule = .present r :: rest ∧ s' = { s with schedule := rest, requests := s.requests ++ [r] }) ∨
    (∃ rest k b, s.schedule = .hostStore k b :: rest ∧ s' = { s with schedule := rest, src := s.src.set k b }) := by
  unfold step scheduledStep at h
  split at h
  · rename_i hs
    exact .inl ⟨s, .inl ⟨hs, rfl⟩, h⟩
  · rename_i m rest hs
    cases m with
    | controller => exact .inl ⟨_, .inr ⟨rest, hs, rfl⟩, h⟩
    | complete =>
      simp only [takeMove, Host.Outcome.next.injEq] at h
      exact .inr (.inl ⟨rest, hs, h.symm⟩)
    | reset =>
      simp only [takeMove, Host.Outcome.next.injEq] at h
      exact .inr (.inr (.inl ⟨rest, hs, h.symm⟩))
    | present r =>
      simp only [takeMove, Host.Outcome.next.injEq] at h
      exact .inr (.inr (.inr (.inl ⟨rest, r, hs, h.symm⟩)))
    | hostStore k b =>
      simp only [takeMove, Host.Outcome.next.injEq] at h
      exact .inr (.inr (.inr (.inr ⟨rest, k, b, hs, h.symm⟩)))

/-- Everything a request can decode to. -/
theorem decodeRequest_cases {c : Config} {r : Request} {i : Instr} (h : decodeRequest c r = .ok i) :
    i = .init ∨
    (r.address < 2 ^ c.operandWidth ∧ r.count < 2 ^ c.operandWidth ∧ i = .hostRead r.address r.count r.buffer) ∨
    (r.address < 2 ^ c.operandWidth ∧ r.count < 2 ^ c.operandWidth ∧ i = .hostWrite r.address r.count r.buffer) := by
  unfold decodeRequest at h
  split at h
  · exact .inl (by simpa using h.symm)
  split at h
  · split at h
    · rename_i hf
      simp only [Config.operandFits, Bool.and_eq_true, decide_eq_true_eq] at hf
      exact .inr (.inl ⟨hf.1, hf.2, by simpa using h.symm⟩)
    · simp at h
  split at h
  · split at h
    · rename_i hf
      simp only [Config.operandFits, Bool.and_eq_true, decide_eq_true_eq] at hf
      exact .inr (.inr ⟨hf.1, hf.2, by simpa using h.symm⟩)
    · simp at h
  · simp at h

/-- Everything the controller's step can be in S_UNINIT. -/
theorem uninit_cases (hp : s.phase = .uninit) (h : controllerStep s = .next s') :
    s' = s ∨ s' = leavePort s ∨ s' = { (leavePort s).emit .init with csSel := false, linkEn := false, phase := .idle } := by
  unfold controllerStep at h
  rw [fetch_port (.inl hp)] at h
  unfold decodePort at h
  split at h
  · rename_i i hi
    split at hi
    · simp at hi
    · rename_i r rest hr
      simp only [decode] at hi
      split at hi
      · rename_i j hj
        simp only [Pending.run.injEq] at hi
        subst hi
        rcases decodeRequest_cases hj with rfl | ⟨-, -, rfl⟩ | ⟨-, -, rfl⟩
        · exact .inr (.inr (by simpa [exec, execInit, hp] using h.symm))
        · exact .inr (.inl (by simpa [exec, execHostRead, hp, refuseRequest] using h.symm))
        · exact .inr (.inl (by simpa [exec, execHostWrite, hp, refuseRequest] using h.symm))
      · simp at hi
  · exact .inr (.inl (by simpa [refuseRequest] using h.symm))
  · exact .inl (by simpa [wait] using h.symm)

/-- Everything the controller's step can be in S_IDLE. -/
theorem idle_cases (hp : s.phase = .idle) (h : controllerStep s = .next s') :
    s' = s ∨ s' = leavePort s ∨ s' = (leavePort s).emit .init ∨
    (∃ r rest, s.requests = r :: rest ∧ r.address < 2 ^ s.config.operandWidth ∧ r.count < 2 ^ s.config.operandWidth ∧
      (s' = { acceptRequest .read r.address r.count s with dst := r.buffer } ∨
        s' = { acceptRequest .write r.address r.count s with src := r.buffer })) := by
  unfold controllerStep at h
  rw [fetch_port (.inr hp)] at h
  unfold decodePort at h
  split at h
  · rename_i i hi
    split at hi
    · simp at hi
    · rename_i r rest hr
      simp only [decode] at hi
      split at hi
      · rename_i j hj
        simp only [Pending.run.injEq] at hi
        subst hi
        rcases decodeRequest_cases hj with rfl | ⟨ha, hk, rfl⟩ | ⟨ha, hk, rfl⟩
        · exact .inr (.inr (.inl (by simpa [exec, execInit, hp] using h.symm)))
        · exact .inr (.inr (.inr ⟨r, rest, hr, ha, hk, .inl (by simpa [exec, execHostRead, hp] using h.symm)⟩))
        · exact .inr (.inr (.inr ⟨r, rest, hr, ha, hk, .inr (by simpa [exec, execHostWrite, hp] using h.symm)⟩))
      · simp at hi
  · exact .inr (.inl (by simpa [refuseRequest] using h.symm))
  · exact .inl (by simpa [wait] using h.symm)

/-- A deselect step that answers a state. -/
theorem deselectStep_cases {p : Phase} (h : deselectStep p s = .next s') :
    ∃ d, s.device.deselect s.config = .ok d ∧
      s' = { s with csSel := false, linkEn := false, device := d, trace := s.trace ++ [.desel], phase := p } := by
  unfold deselectStep at h
  split at h
  · rename_i d hd
    exact ⟨d, hd, by simpa using h.symm⟩
  · simp at h

/-- The range check's three rows. -/
theorem checkRow_cases (h : checkRow s = .next s') :
    (outOfRange s.config s.A s.N = true ∧ s' = raiseOutOfRange s) ∨
    (outOfRange s.config s.A s.N = false ∧ s.op = .read ∧ s' = { s with rstat := .ok, phase := .pollSel }) ∨
    (outOfRange s.config s.A s.N = false ∧ s.op = .write ∧ s' = { s with rstat := .ok, cur := s.A, phase := .split }) := by
  unfold checkRow at h
  split at h
  · rename_i ho
    exact .inl ⟨ho, by simpa using h.symm⟩
  · rename_i ho
    split at h
    · rename_i hop
      exact .inr (.inl ⟨by simpa using ho, hop, by simpa using h.symm⟩)
    · rename_i hop
      exact .inr (.inr ⟨by simpa using ho, hop, by simpa using h.symm⟩)

/-- The splitter's two rows. -/
theorem splitRow_cases (h : splitRow s = .next s') :
    (s.cur = s.A + s.N ∧ s' = s.goto .resp) ∨
    (s.cur ≠ s.A + s.N ∧ s' = { s with n := chunkLength s.config s.cur (s.A + s.N), phase := .pollSel }) := by
  unfold splitRow at h
  split at h
  · rename_i hc
    exact .inl ⟨hc, by simpa using h.symm⟩
  · rename_i hc
    exact .inr ⟨hc, by simpa using h.symm⟩

/-- The poll test's four rows. -/
theorem pollTestRow_cases (h : pollTestRow s = .next s') :
    (statusBusy s.sr = true ∧ s' = s.goto .pollSel) ∨
    (statusBusy s.sr = false ∧ s.op = .write ∧ s' = s.goto .wrenSel) ∨
    (statusBusy s.sr = false ∧ s.op = .read ∧ s.N = 0 ∧ s' = s.goto .resp) ∨
    (statusBusy s.sr = false ∧ s.op = .read ∧ s.N ≠ 0 ∧ s' = { s with i := 0, phase := .rdSel }) := by
  unfold pollTestRow at h
  split at h
  · rename_i hb
    exact .inl ⟨hb, by simpa using h.symm⟩
  · rename_i hb
    split at h
    · rename_i hop
      exact .inr (.inl ⟨by simpa using hb, hop, by simpa using h.symm⟩)
    · rename_i hop
      split at h
      · rename_i hN
        exact .inr (.inr (.inl ⟨by simpa using hb, hop, hN, by simpa using h.symm⟩))
      · rename_i hN
        exact .inr (.inr (.inr ⟨by simpa using hb, hop, hN, by simpa using h.symm⟩))

/-- READ's data rows. -/
theorem readDataRow_cases {m : Nat} (h : readDataRow m s = .next s') :
    (m = 0 ∧ s' = s) ∨
    (1 ≤ m ∧ s.i < s.dst.length ∧
      s' = { exchange s s.config.dummyByte with
              dst := s.dst.set s.i (received s s.config.dummyByte), i := s.i + 1,
              phase := if 1 < m then .rdData else .rdDesel }) := by
  unfold readDataRow at h
  split at h
  · rename_i hm
    exact .inl ⟨hm, by simpa [wait] using h.symm⟩
  · rename_i hm
    unfold memWriteDst at h
    split at h
    · simp at h
    · rename_i dst hd
      split at hd
      · rename_i hl
        refine .inr ⟨by omega, hl, ?_⟩
        simp only [Option.some.injEq] at hd
        subst hd
        simpa using h.symm
      · simp at hd

/-- READ's hold rows. -/
theorem readHoldRow_cases (h : readHoldRow s = .next s') :
    (s.i < s.N ∧ s' = (hold s).goto .rdSel) ∨ (s.i = s.N ∧ s' = (hold s).goto .resp) ∨ (s.N < s.i ∧ s' = s) := by
  unfold readHoldRow at h
  split at h
  · rename_i hi
    exact .inl ⟨hi, by simpa [holdStep] using h.symm⟩
  · rename_i hi
    split at h
    · rename_i he
      exact .inr (.inl ⟨he, by simpa [holdStep] using h.symm⟩)
    · exact .inr (.inr ⟨by omega, by simpa [wait] using h.symm⟩)

/-- WRITE's data rows. -/
theorem writeDataRow_cases {data : List Byte} (h : writeDataRow data s = .next s') :
    (s.n ≤ s.i ∧ s' = s) ∨
    (s.i < s.n ∧ ∃ b rest, data = b :: rest ∧
      s' = { exchange s b with i := s.i + 1, phase := if s.i + 1 < s.n then .wrData else .wrDesel }) := by
  unfold writeDataRow at h
  split at h
  · rename_i hi
    split at h
    · simp at h
    · rename_i b rest
      exact .inr ⟨hi, b, rest, rfl, by simpa using h.symm⟩
  · exact .inl ⟨by omega, by simpa [wait] using h.symm⟩

/-! ### The data byte WRITE sends -/

/-- The first byte still to be sent is `MemRead(SRC, cur - A + i, 1)` (44_host_operations R198, S_WR_DATA). -/
theorem pendingData_head (hp : s.phase = .wrData) (hi : s.i < s.n) :
    (pendingData s).head? = memReadSrc s (s.cur - s.A + s.i) := by
  have : 0 < s.n - s.i := by omega
  simp [pendingData, dataSent, hp, memReadSrc, List.head?_eq_getElem?, this]

end Sys2Proof.Machine
end

