-- ==== Sys2Proof/Laws/Relation.lean ====
section
/-! SUPPORT. The controller's step as one relation with one constructor per row of 44_host_operations R198 (and the stutters), and the
inversion lemma from `controllerStep` to it: a proof about every step is a case analysis of `Row`. -/

namespace Sys2Proof.Machine

/-- `Row s s'`: the controller goes from `s` to `s'`. -/
inductive Row (s : State) : State → Prop
  | waitUninit : s.phase = .uninit → Row s s
  | waitIdle : s.phase = .idle → Row s s
  | refuseUninit : s.phase = .uninit → Row s (leavePort s)
  | refuseIdle : s.phase = .idle → Row s (leavePort s)
  | initUninit : s.phase = .uninit →
      Row s { (leavePort s).emit .init with csSel := false, linkEn := false, phase := .idle }
  | initIdle : s.phase = .idle → Row s ((leavePort s).emit .init)
  | acceptRead (r : Request) (rest : List Request) : s.phase = .idle → s.requests = r :: rest →
      r.address < 2 ^ s.config.operandWidth → r.count < 2 ^ s.config.operandWidth →
      Row s { acceptRequest .read r.address r.count s with dst := r.buffer }
  | acceptWrite (r : Request) (rest : List Request) : s.phase = .idle → s.requests = r :: rest →
      r.address < 2 ^ s.config.operandWidth → r.count < 2 ^ s.config.operandWidth →
      Row s { acceptRequest .write r.address r.count s with src := r.buffer }
  | checkOut : s.phase = .check → outOfRange s.config s.A s.N = true → Row s (raiseOutOfRange s)
  | checkRead : s.phase = .check → outOfRange s.config s.A s.N = false → s.op = .read →
      Row s { s with rstat := .ok, phase := .pollSel }
  | checkWrite : s.phase = .check → outOfRange s.config s.A s.N = false → s.op = .write →
      Row s { s with rstat := .ok, cur := s.A, phase := .split }
  | splitDone : s.phase = .split → s.cur = s.A + s.N → Row s (s.goto .resp)
  | splitMore : s.phase = .split → s.cur ≠ s.A + s.N →
      Row s { s with n := chunkLength s.config s.cur (s.A + s.N), phase := .pollSel }
  | pollSel : s.phase = .pollSel → Row s ((selectDevice s).goto .pollOp)
  | pollOp : s.phase = .pollOp → Row s ((exchange s opcodeRdsr).goto .pollDummy)
  | pollDummy : s.phase = .pollDummy →
      Row s { exchange s s.config.dummyByte with sr := received s s.config.dummyByte, phase := .pollDesel }
  | pollDesel (d : Device) : s.phase = .pollDesel → s.device.deselect s.config = .ok d →
      Row s { s with csSel := false, linkEn := false, device := d, trace := s.trace ++ [.desel], phase := .pollHold }
  | pollHold : s.phase = .pollHold → Row s ((hold s).goto .pollTest)
  | pollAgain : s.phase = .pollTest → statusBusy s.sr = true → Row s (s.goto .pollSel)
  | pollWrite : s.phase = .pollTest → statusBusy s.sr = false → s.op = .write → Row s (s.goto .wrenSel)
  | pollReadNone : s.phase = .pollTest → statusBusy s.sr = false → s.op = .read → s.N = 0 → Row s (s.goto .resp)
  | pollRead : s.phase = .pollTest → statusBusy s.sr = false → s.op = .read → s.N ≠ 0 →
      Row s { s with i := 0, phase := .rdSel }
  | rdSel : s.phase = .rdSel → Row s ((selectDevice s).goto .rdOp)
  | rdOp : s.phase = .rdOp → Row s ((exchange s opcodeRead).goto .rdAh)
  | rdAh : s.phase = .rdAh → Row s ((exchange s (hi8 (addressField (s.A + s.i)))).goto .rdAl)
  | rdAl : s.phase = .rdAl → Row s ((exchange s (lo8 (addressField (s.A + s.i)))).goto .rdData)
  | rdDataStuck : s.phase = .rdData → pendingPositions s = 0 → Row s s
  | rdDataMore : s.phase = .rdData → 1 < pendingPositions s → s.i < s.dst.length →
      Row s { exchange s s.config.dummyByte with
        dst := s.dst.set s.i (received s s.config.dummyByte), i := s.i + 1, phase := .rdData }
  | rdDataLast : s.phase = .rdData → pendingPositions s = 1 → s.i < s.dst.length →
      Row s { exchange s s.config.dummyByte with
        dst := s.dst.set s.i (received s s.config.dummyByte), i := s.i + 1, phase := .rdDesel }
  | rdDesel (d : Device) : s.phase = .rdDesel → s.device.deselect s.config = .ok d →
      Row s { s with csSel := false, linkEn := false, device := d, trace := s.trace ++ [.desel], phase := .rdHold }
  | rdHoldMore : s.phase = .rdHold → s.i < s.N → Row s ((hold s).goto .rdSel)
  | rdHoldDone : s.phase = .rdHold → s.i = s.N → Row s ((hold s).goto .resp)
  | rdHoldStuck : s.phase = .rdHold → s.N < s.i → Row s s
  | wrenSel : s.phase = .wrenSel → Row s ((selectDevice s).goto .wrenOp)
  | wrenOp : s.phase = .wrenOp → Row s ((exchange s opcodeWren).goto .wrenDesel)
  | wrenDesel (d : Device) : s.phase = .wrenDesel → s.device.deselect s.config = .ok d →
      Row s { s with csSel := false, linkEn := false, device := d, trace := s.trace ++ [.desel], phase := .wrenHold }
  | wrenHold : s.phase = .wrenHold → Row s ((hold s).goto .wrSel)
  | wrSel : s.phase = .wrSel → Row s ((selectDevice s).goto .wrOp)
  | wrOp : s.phase = .wrOp → Row s ((exchange s opcodeWrite).goto .wrAh)
  | wrAh : s.phase = .wrAh → Row s ((exchange s (hi8 (addressField s.cur))).goto .wrAl)
  | wrAl : s.phase = .wrAl → Row s { exchange s (lo8 (addressField s.cur)) with i := 0, phase := .wrData }
  | wrDataStuck : s.phase = .wrData → s.n ≤ s.i → Row s s
  | wrDataMore (b : Byte) : s.phase = .wrData → s.i + 1 < s.n → memReadSrc s (s.cur - s.A + s.i) = some b →
      Row s { exchange s b with i := s.i + 1, phase := .wrData }
  | wrDataLast (b : Byte) : s.phase = .wrData → s.i + 1 = s.n → memReadSrc s (s.cur - s.A + s.i) = some b →
      Row s { exchange s b with i := s.i + 1, phase := .wrDesel }
  | wrDesel (d : Device) : s.phase = .wrDesel → s.device.deselect s.config = .ok d →
      Row s { s with csSel := false, linkEn := false, device := d, trace := s.trace ++ [.desel], phase := .wrHold }
  | wrHold : s.phase = .wrHold → Row s ((hold s).goto .wrdiSel)
  | wrdiSel : s.phase = .wrdiSel → Row s ((selectDevice s).goto .wrdiOp)
  | wrdiOp : s.phase = .wrdiOp → Row s ((exchange s opcodeWrdi).goto .wrdiDesel)
  | wrdiDesel (d : Device) : s.phase = .wrdiDesel → s.device.deselect s.config = .ok d →
      Row s { s with csSel := false, linkEn := false, device := d, trace := s.trace ++ [.desel], phase := .wrdiHold }
  | wrdiHold : s.phase = .wrdiHold → Row s { hold s with cur := s.cur + s.n, phase := .split }
  | resp : s.phase = .resp → Row s (respond s)

variable {s s' : State}

theorem row_of_next {t : State} (ht : Row s t) (h : (.next t : Result) = .next s') : Row s s' := by
  simp only [Host.Outcome.next.injEq] at h
  exact h ▸ ht

/-- Everything the controller's step can be. -/
theorem controllerStep_row (h : controllerStep s = .next s') : Row s s' := by
  cases hp : s.phase with
  | uninit =>
    rcases uninit_cases hp h with rfl | rfl | rfl
    exacts [.waitUninit hp, .refuseUninit hp, .initUninit hp]
  | idle =>
    rcases idle_cases hp h with rfl | rfl | rfl | ⟨r, rest, hr, ha, hk, rfl | rfl⟩
    exacts [.waitIdle hp, .refuseIdle hp, .initIdle hp, .acceptRead r rest hp hr ha hk, .acceptWrite r rest hp hr ha hk]
  | check =>
    rw [row_check hp] at h
    rcases checkRow_cases h with ⟨ho, rfl⟩ | ⟨ho, hop, rfl⟩ | ⟨ho, hop, rfl⟩
    exacts [.checkOut hp ho, .checkRead hp ho hop, .checkWrite hp ho hop]
  | split =>
    rw [row_split hp] at h
    rcases splitRow_cases h with ⟨hc, rfl⟩ | ⟨hc, rfl⟩
    exacts [.splitDone hp hc, .splitMore hp hc]
  | pollTest =>
    rw [row_pollTest hp] at h
    rcases pollTestRow_cases h with ⟨hb, rfl⟩ | ⟨hb, hop, rfl⟩ | ⟨hb, hop, hN, rfl⟩ | ⟨hb, hop, hN, rfl⟩
    exacts [.pollAgain hp hb, .pollWrite hp hb hop, .pollReadNone hp hb hop hN, .pollRead hp hb hop hN]
  | resp => rw [row_resp hp] at h; exact row_of_next (.resp hp) h
  | pollSel => rw [row_pollSel hp] at h; exact row_of_next (.pollSel hp) h
  | rdSel => rw [row_rdSel hp] at h; exact row_of_next (.rdSel hp) h
  | wrenSel => rw [row_wrenSel hp] at h; exact row_of_next (.wrenSel hp) h
  | wrSel => rw [row_wrSel hp] at h; exact row_of_next (.wrSel hp) h
  | wrdiSel => rw [row_wrdiSel hp] at h; exact row_of_next (.wrdiSel hp) h
  | pollOp => rw [row_pollOp hp] at h; exact row_of_next (.pollOp hp) h
  | pollDummy => rw [row_pollDummy hp] at h; exact row_of_next (.pollDummy hp) h
  | rdOp => rw [row_rdOp hp] at h; exact row_of_next (.rdOp hp) h
  | rdAh => rw [row_rdAh hp] at h; exact row_of_next (.rdAh hp) h
  | rdAl => rw [row_rdAl hp] at h; exact row_of_next (.rdAl hp) h
  | wrenOp => rw [row_wrenOp hp] at h; exact row_of_next (.wrenOp hp) h
  | wrOp => rw [row_wrOp hp] at h; exact row_of_next (.wrOp hp) h
  | wrAh => rw [row_wrAh hp] at h; exact row_of_next (.wrAh hp) h
  | wrAl => rw [row_wrAl hp] at h; exact row_of_next (.wrAl hp) h
  | wrdiOp => rw [row_wrdiOp hp] at h; exact row_of_next (.wrdiOp hp) h
  | pollHold => rw [row_pollHold hp] at h; exact row_of_next (.pollHold hp) h
  | wrenHold => rw [row_wrenHold hp] at h; exact row_of_next (.wrenHold hp) h
  | wrHold => rw [row_wrHold hp] at h; exact row_of_next (.wrHold hp) h
  | wrdiHold => rw [row_wrdiHold hp] at h; exact row_of_next (.wrdiHold hp) h
  | pollDesel => rw [row_pollDesel hp] at h; obtain ⟨d, hd, rfl⟩ := deselectStep_cases h; exact .pollDesel d hp hd
  | rdDesel => rw [row_rdDesel hp] at h; obtain ⟨d, hd, rfl⟩ := deselectStep_cases h; exact .rdDesel d hp hd
  | wrenDesel => rw [row_wrenDesel hp] at h; obtain ⟨d, hd, rfl⟩ := deselectStep_cases h; exact .wrenDesel d hp hd
  | wrDesel => rw [row_wrDesel hp] at h; obtain ⟨d, hd, rfl⟩ := deselectStep_cases h; exact .wrDesel d hp hd
  | wrdiDesel => rw [row_wrdiDesel hp] at h; obtain ⟨d, hd, rfl⟩ := deselectStep_cases h; exact .wrdiDesel d hp hd
  | rdData =>
    rw [row_rdData hp] at h
    rcases readDataRow_cases h with ⟨hm, rfl⟩ | ⟨hm, hl, rfl⟩
    · exact .rdDataStuck hp hm
    · by_cases h1 : 1 < pendingPositions s
      · simpa [h1] using Row.rdDataMore hp h1 hl
      · simpa [h1] using Row.rdDataLast hp (by omega) hl
  | rdHold =>
    rw [row_rdHold hp] at h
    rcases readHoldRow_cases h with ⟨hi, rfl⟩ | ⟨hi, rfl⟩ | ⟨hi, rfl⟩
    exacts [.rdHoldMore hp hi, .rdHoldDone hp hi, .rdHoldStuck hp hi]
  | wrData =>
    rw [row_wrData hp] at h
    rcases writeDataRow_cases h with ⟨hi, rfl⟩ | ⟨hi, b, rest, hb, rfl⟩
    · exact .wrDataStuck hp hi
    · have hm : memReadSrc s (s.cur - s.A + s.i) = some b := by rw [← pendingData_head hp hi, hb]; rfl
      by_cases h1 : s.i + 1 < s.n
      · simpa [h1] using Row.wrDataMore b hp h1 hm
      · simpa [h1] using Row.wrDataLast b hp (by omega) hm

/-! ### Endless executions -/

/-- No row reads or writes the schedule. -/
theorem row_schedule (h : Row s s') : s'.schedule = s.schedule := by cases h <;> simp [leavePort]

/-- A state of an endless execution has nothing scheduled. -/
theorem playMoves_schedule {moves : Nat → Move} {k : Nat} (h : playMoves moves s k = .next s') : s'.schedule = [] := by
  cases k with
  | zero =>
    simp only [playMoves, Host.Outcome.next.injEq] at h
    subst h
    rfl
  | succ k =>
    simp only [playMoves] at h
    split at h
    · rcases step_cases h with ⟨u, ⟨hn, -⟩ | ⟨rest, hr, rfl⟩, hc⟩ | ⟨rest, hr, rfl⟩ | ⟨rest, hr, rfl⟩ | ⟨rest, r, hr, rfl⟩ |
        ⟨rest, j, b, hr, rfl⟩
      · simp at hn
      · rw [row_schedule (controllerStep_row hc)]
        simp_all
      · simp_all
      · simp only [List.cons.injEq] at hr
        simp [reset, resetController, apply_ite State.schedule, ← hr.2]
      · simp_all
      · simp_all
    all_goals cases h

/-- One more move of an endless execution: the move taken with nothing else scheduled. -/
theorem playMoves_succ {moves : Nat → Move} {k : Nat} (h : playMoves moves s k = .next s') :
    playMoves moves s (k + 1) = takeMove (moves k) s' := by
  have hs := playMoves_schedule h
  simp only [playMoves, h, step, scheduledStep]
  congr 1
  cases s'
  simp_all

end Sys2Proof.Machine
end

