-- ==== Sys2Proof/Laws/Helpers.lean ====
section
/-! SUPPORT. Small facts about the operand and safety definitions, used across proofs: the controller's turn, the address field, ranges and
pages, the monitor's reading of one more event. -/

namespace Sys2Proof.Machine

variable {s s' : State}

/-! ### The controller's turn -/

theorem turn_eq {t : State} (h : ControllersTurn s t) : t = { s with schedule := t.schedule } := by
  rcases h with ⟨-, rfl⟩ | ⟨r, -, rfl⟩ <;> rfl

theorem step_of_turn {t : State} (h : ControllersTurn s t) : step s = controllerStep t := by
  rcases h with ⟨h, rfl⟩ | ⟨r, h, rfl⟩ <;> simp [step, scheduledStep, h, takeMove]

theorem step_of_empty_schedule (h : s.schedule = []) : step s = controllerStep s := by
  simp [step, scheduledStep, h]

theorem row_keeps_config (h : Row s s') : s'.config = s.config := by
  cases h <;> simp [leavePort, acceptRequest, raiseOutOfRange, respond]

/-! ### The address field -/

theorem joinAddr_toNat (h l : Byte) : (joinAddr h l).toNat = h.toNat * 256 + l.toNat := by
  unfold joinAddr
  rw [BitVec.toNat_append, ← Nat.shiftLeft_add_eq_or_of_lt (by have := l.isLt; omega)]
  simp [Nat.shiftLeft_eq]

theorem hi8_joinAddr (h l : Byte) : hi8 (joinAddr h l) = h := by
  apply BitVec.eq_of_toNat_eq
  have h1 := h.isLt
  have h2 := l.isLt
  simp only [hi8, BitVec.extractLsb'_toNat, joinAddr_toNat, Nat.shiftRight_eq_div_pow]
  omega

theorem lo8_joinAddr (h l : Byte) : lo8 (joinAddr h l) = l := by
  apply BitVec.eq_of_toNat_eq
  have h2 := l.isLt
  simp only [lo8, BitVec.extractLsb'_toNat, joinAddr_toNat, Nat.shiftRight_eq_div_pow]
  omega

theorem hi8_addressField (a : Nat) : hi8 (addressField a) = BitVec.ofNat 8 (a / 256) := by
  apply BitVec.eq_of_toNat_eq
  simp [hi8, addressField, BitVec.extractLsb', Nat.shiftRight_eq_div_pow]
  omega

theorem lo8_addressField (a : Nat) : lo8 (addressField a) = BitVec.ofNat 8 (a % 256) := by
  apply BitVec.eq_of_toNat_eq
  simp [lo8, addressField, BitVec.extractLsb']

theorem addressField_toNat {a : Nat} (h : a < 65536) : (addressField a).toNat = a := by
  simp [addressField]
  omega

/-! ### Ranges and pages -/

theorem maxAddress_le (c : Config) : c.maxAddress ≤ 65536 := by
  have := c.lastAddress.isLt
  unfold Config.maxAddress
  omega

theorem pageSize_pos (c : Config) : 0 < c.pageSize := by simp [Config.pageSize]

theorem inRange_iff (c : Config) (a n : Nat) : outOfRange c a n = false ↔ a < c.maxAddress ∧ a + n ≤ c.maxAddress := by
  simp [outOfRange]
  omega

theorem toPageEnd_bounds (c : Config) (cur : Nat) : 1 ≤ toPageEnd c cur ∧ toPageEnd c cur ≤ c.pageSize := by
  have := Nat.mod_lt cur (pageSize_pos c)
  unfold toPageEnd
  omega

theorem onePage_of_le_toPageEnd (c : Config) (a n : Nat) (hn : 1 ≤ n) (h : n ≤ toPageEnd c a) : c.onePage a n = true := by
  unfold Config.onePage toPageEnd at *
  have hm := Nat.mod_lt a (pageSize_pos c)
  have hd := Nat.div_add_mod a c.pageSize
  simp only [decide_eq_true_eq]
  symm
  rw [Nat.div_eq_iff (pageSize_pos c)]
  rw [Nat.mul_comm] at hd
  constructor <;> omega

theorem writeAccepted_of_le_toPageEnd (c : Config) (a n : Nat) (hn : 1 ≤ n) (h : n ≤ toPageEnd c a)
    (ha : a + n ≤ c.maxAddress) : writeAccepted c a n = true := by
  have h1 := onePage_of_le_toPageEnd c a n hn h
  have h2 := (toPageEnd_bounds c a).2
  have h3 : n ≤ c.pageSize := by omega
  simp [writeAccepted, Config.rangeFits, *]

/-! ### Frames -/

theorem readFrame_snoc (c : Config) (a : Addr) (k : Nat) : readFrame c a k ++ [c.dummyByte] = readFrame c a (k + 1) := by
  simp [readFrame, List.replicate_succ']

theorem writeFrame_snoc (a : Addr) (data : List Byte) (b : Byte) : writeFrame a data ++ [b] = writeFrame a (data ++ [b]) := by
  simp [writeFrame]

theorem frameLegal_readFrame (c : Config) (a m : Nat) (hm : 1 ≤ m) (ha : a + m ≤ c.maxAddress) :
    frameLegal c (readFrame c (addressField a) m) = true := by
  have h1 := maxAddress_le c
  have h2 : (addressField a).toNat = a := addressField_toNat (by omega)
  obtain ⟨m, rfl⟩ : ∃ k, m = k + 1 := ⟨m - 1, by omega⟩
  simp [frameLegal, readFrame, List.replicate_succ, joinAddr_hi8_lo8, h2, Config.rangeFits, opcodeRead, opcodeWrite]
  omega

theorem cellsFrom_eq_zip (a : Nat) (data : List Byte) : cellsFrom a data = (List.range' a data.length).zip data := by
  induction data generalizing a with
  | nil => rfl
  | cons b r ih => simp [cellsFrom, ih, List.range'_succ]

/-! ### The monitor and one more event -/

theorem busScan_snoc {c : Config} {tr : List Event} {e : Event} {b : BusState} (h : busScan c tr = some b) :
    busScan c (tr ++ [e]) = busEvent c b e := by
  unfold busScan at *
  simp only [List.foldlM_append, h]
  simp

end Sys2Proof.Machine
end

