-- ==== Sys2Proof/Laws/Memory.lean ====
section
/-! SUPPORT. The laws of the device array: a read after a write, and that every operation keeps the canonical form. -/

namespace Sys2Proof.Machine

/-! ### The canonical form, by cells -/

theorem wfAbove_cons {low : Option Nat} {k : Nat} {b : Byte} {m : Memory} :
    Memory.wfAbove low ((k, b) :: m) = true ↔
      (∀ l, low = some l → l < k) ∧ b ≠ blankByte ∧ Memory.wfAbove (some k) m = true := by
  cases low <;> simp [Memory.wfAbove, and_assoc]

theorem wfAbove_mono {low low' : Option Nat} {m : Memory} (h : Memory.wfAbove low m = true)
    (hl : ∀ l', low' = some l' → ∃ l, low = some l ∧ l' ≤ l) : Memory.wfAbove low' m = true := by
  cases m with
  | nil => simp [Memory.wfAbove]
  | cons x rest =>
    obtain ⟨k, b⟩ := x
    rw [wfAbove_cons] at h ⊢
    refine ⟨fun l' hl' => ?_, h.2⟩
    obtain ⟨l, hl, hle⟩ := hl l' hl'
    exact lt_of_le_of_lt hle (h.1 l hl)

/-! ### Below the first cell nothing is listed -/

theorem read_of_le_low {l : Nat} {m : Memory} (h : Memory.wfAbove (some l) m = true) {a : Nat} (ha : a ≤ l) :
    m.read a = blankByte := by
  induction m generalizing l with
  | nil => rfl
  | cons x rest ih =>
    obtain ⟨k, b⟩ := x
    rw [wfAbove_cons] at h
    have hk := h.1 l rfl
    have : k ≠ a := by omega
    simp only [Memory.read, this, if_false]
    exact ih h.2.2 (by omega)

/-! ### Erase and insert -/

theorem erase_wfAbove {low : Option Nat} {m : Memory} (h : Memory.wfAbove low m = true) (a : Nat) :
    Memory.wfAbove low (m.erase a) = true := by
  induction m generalizing low with
  | nil => simpa [Memory.erase] using h
  | cons x rest ih =>
    obtain ⟨k, b⟩ := x
    have h' := wfAbove_cons.mp h
    unfold Memory.erase
    split
    · exact wfAbove_mono h'.2.2 fun l hl => ⟨k, rfl, (h'.1 l hl).le⟩
    · exact wfAbove_cons.mpr ⟨h'.1, h'.2.1, ih h'.2.2⟩

theorem insert_wfAbove {low : Option Nat} {m : Memory} (h : Memory.wfAbove low m = true) {a : Nat} {b : Byte}
    (ha : ∀ l, low = some l → l < a) (hb : b ≠ blankByte) : Memory.wfAbove low (m.insert a b) = true := by
  induction m generalizing low with
  | nil => simpa [Memory.insert] using wfAbove_cons.mpr ⟨ha, hb, by simp [Memory.wfAbove]⟩
  | cons x rest ih =>
    obtain ⟨k, c⟩ := x
    have h' := wfAbove_cons.mp h
    unfold Memory.insert
    split
    · rename_i hlt
      exact wfAbove_cons.mpr ⟨ha, hb, wfAbove_cons.mpr ⟨fun l hl => by cases hl; exact hlt, h'.2⟩⟩
    split
    · rename_i heq
      subst heq
      exact wfAbove_cons.mpr ⟨ha, hb, h'.2.2⟩
    · exact wfAbove_cons.mpr ⟨h'.1, h'.2.1, ih h'.2.2 fun l hl => by cases hl; omega⟩

/-- A write keeps the canonical form. -/
theorem write_wf {m : Memory} (h : m.wf = true) (a : Nat) (b : Byte) : (m.write a b).wf = true := by
  unfold Memory.write
  split
  · exact erase_wfAbove h a
  · rename_i hb
    exact insert_wfAbove h (by simp) hb

/-- Storing a list of cells keeps the canonical form. -/
theorem writeAll_wf {m : Memory} (h : m.wf = true) (cells : List Host.Cell) : (m.writeAll cells).wf = true := by
  induction cells generalizing m with
  | nil => simpa [Memory.writeAll] using h
  | cons x rest ih => exact ih (write_wf h x.1 x.2)

/-! ### Read after write -/

theorem read_erase {low : Option Nat} {m : Memory} (h : Memory.wfAbove low m = true) (a x : Nat) :
    (m.erase a).read x = if x = a then blankByte else m.read x := by
  induction m generalizing low with
  | nil => simp [Memory.erase, Memory.read]
  | cons y rest ih =>
    obtain ⟨k, b⟩ := y
    have h' := wfAbove_cons.mp h
    unfold Memory.erase
    split
    · rename_i hk
      subst hk
      by_cases hx : x = k
      · subst hx
        rw [if_pos rfl, read_of_le_low h'.2.2 (le_refl x)]
      · simp [hx, Memory.read, Ne.symm hx]
    · rename_i hk
      simp only [Memory.read]
      by_cases hx : k = x
      · subst hx
        simp [hk]
      · simp only [hx, if_false]
        exact ih h'.2.2

theorem read_insert (m : Memory) (a x : Nat) (b : Byte) : (m.insert a b).read x = if x = a then b else m.read x := by
  induction m with
  | nil => simp [Memory.insert, Memory.read, eq_comm]
  | cons y rest ih =>
    obtain ⟨k, c⟩ := y
    unfold Memory.insert
    split
    · simp [Memory.read, eq_comm]
    split
    · rename_i hlt heq
      subst heq
      by_cases hx : x = a
      · simp [hx, Memory.read]
      · simp [hx, Ne.symm hx, Memory.read]
    · rename_i hlt hne
      simp only [Memory.read]
      by_cases hx : k = x
      · subst hx
        simp [Ne.symm hne]
      · simp only [hx, if_false, ih]

/-- A read after a write: the byte written at its address, the old byte everywhere else. -/
theorem read_write {m : Memory} (h : m.wf = true) (a x : Nat) (b : Byte) :
    (m.write a b).read x = if x = a then b else m.read x := by
  unfold Memory.write
  split
  · rename_i hb
    rw [read_erase h, hb]
  · exact read_insert m a x b

/-- Storing cells leaves every address they do not name. -/
theorem read_writeAll_of_not_mem {m : Memory} (h : m.wf = true) (cells : List Host.Cell) (x : Nat)
    (hx : ∀ y ∈ cells, y.1 ≠ x) : (m.writeAll cells).read x = m.read x := by
  induction cells generalizing m with
  | nil => rfl
  | cons y rest ih =>
    have hy := hx y (by simp)
    rw [Memory.writeAll, ih (write_wf h _ _) fun z hz => hx z (by simp [hz]), read_write h, if_neg (Ne.symm hy)]

/-! ### Addresses listed -/

theorem mem_erase {m : Memory} {a : Nat} {x : Host.Cell} (h : x ∈ m.erase a) : x ∈ m := by
  induction m with
  | nil => simp [Memory.erase] at h
  | cons y rest ih =>
    obtain ⟨k, b⟩ := y
    unfold Memory.erase at h
    split at h
    · exact List.mem_cons_of_mem _ h
    · rcases List.mem_cons.mp h with rfl | h
      · simp
      · exact List.mem_cons_of_mem _ (ih h)

theorem mem_insert {m : Memory} {a : Nat} {b : Byte} {x : Host.Cell} (h : x ∈ m.insert a b) : x = (a, b) ∨ x ∈ m := by
  induction m with
  | nil => simpa [Memory.insert] using h
  | cons y rest ih =>
    obtain ⟨k, c⟩ := y
    unfold Memory.insert at h
    split at h
    · simpa using h
    split at h
    · rcases List.mem_cons.mp h with rfl | h
      · simp
      · exact .inr (List.mem_cons_of_mem _ h)
    · rcases List.mem_cons.mp h with rfl | h
      · simp
      · rcases ih h with h | h
        · exact .inl h
        · exact .inr (List.mem_cons_of_mem _ h)

theorem mem_write {m : Memory} {a : Nat} {b : Byte} {x : Host.Cell} (h : x ∈ m.write a b) : x = (a, b) ∨ x ∈ m := by
  unfold Memory.write at h
  split at h
  · exact .inr (mem_erase h)
  · exact mem_insert h

theorem mem_writeAll {m : Memory} {cells : List Host.Cell} {x : Host.Cell} (h : x ∈ m.writeAll cells) :
    x ∈ cells ∨ x ∈ m := by
  induction cells generalizing m with
  | nil => exact .inr h
  | cons y rest ih =>
    rcases ih h with h | h
    · exact .inl (List.mem_cons_of_mem _ h)
    · rcases mem_write h with rfl | h
      · simp
      · exact .inr h

end Sys2Proof.Machine
end

