-- ==== Sys2Proof/Laws/PerInstr.lean ====
section
/-! SUPPORT. One family of facts stated for each constructor of Instr: what an encoded instruction is selected by is the code that
30_encoding R85 and R92 give it. -/

namespace Sys2Proof.Laws.EncodedOpcode

/-- What a receiver selects on: byte 0 of a frame, the `op` field of a request (30_encoding R85, R92). -/
inductive Selector
  | opcode (o : Byte)
  | op (k : BitVec 2)
  | nothing
  deriving DecidableEq, Repr

/-- The selector of an encoded form. -/
def selectorOf : Encoded → Selector
  | .request r => .op r.op
  | .frame [] => .nothing
  | .frame (o :: _) => .opcode o

/-- The selector of each instruction, from the tables of 30_encoding R85 and R92. -/
def expected : Instr → Selector
  | .wren => .opcode 0x06#8
  | .wrdi => .opcode 0x04#8
  | .rdsr => .opcode 0x05#8
  | .read _ _ => .opcode 0x03#8
  | .write _ _ => .opcode 0x02#8
  | .init => .op 0#2
  | .hostRead _ _ _ => .op 1#2
  | .hostWrite _ _ _ => .op 2#2

/-- An encoded instruction carries its own selector, for every configuration. -/
def Statement (i : Instr) : Prop := ∀ c : Config, selectorOf (encode c i) = expected i

theorem wren : Statement .wren := fun _ => rfl

theorem wrdi : Statement .wrdi := fun _ => rfl

theorem rdsr : Statement .rdsr := fun _ => rfl

theorem read (addr : Addr) (positions : Nat) : Statement (.read addr positions) := fun _ => rfl

theorem write (addr : Addr) (data : List Byte) : Statement (.write addr data) := fun _ => rfl

theorem init : Statement .init := fun _ => rfl

theorem hostRead (address count : Nat) (destination : List Byte) : Statement (.hostRead address count destination) :=
  fun _ => rfl

theorem hostWrite (address count : Nat) (source : List Byte) : Statement (.hostWrite address count source) := fun _ => rfl

end Sys2Proof.Laws.EncodedOpcode
end

