-- ==== Sys2Proof/Tests/Slice0.lean ====
section
/-! SUPPORT. Tests of the model against words and vectors written out from spec/ (95_test_vectors and the encodings of 30_encoding), and a
witness for the hypotheses of each obligation. -/

namespace Sys2Proof.Tests

open Sys2Proof.Machine

/-! ### Small machines and helpers -/

/-- MAX_ADDRESS 16, PAGE_SIZE 4 (95_test_vectors P3), DUMMY_BYTE 0x00, W 8. -/
def smallConfig (f : ReadFraming) : Config :=
  ⟨15, 2, 50, 0x00#8, 7, f, .low, ⟨0, 0, true⟩⟩

/-- The vectors' configuration: MAX_ADDRESS 0x4000, PAGE_SIZE 64, DUMMY_BYTE 0x00, W 16. -/
def vectorConfig (f : ReadFraming) : Config :=
  ⟨0x3FFF, 6, 50, 0x00#8, 15, f, .low, ⟨0, 0, true⟩⟩

/-- The small machine in a phase, nothing else set. -/
def small (p : Phase) : State := { State.resetOf (smallConfig .burst) with phase := p }

/-- The vectors' machine in a phase. -/
def vec (p : Phase) : State := { State.resetOf (vectorConfig .burst) with phase := p }

/-- A result that is a next state with a property. -/
def resultIs (r : Result) (p : State → Bool) : Bool :=
  match r with
  | .next t => p t
  | .fault _ => false
  | .refused _ => false

theorem next_of_resultIs {r : Result} {p : State → Bool} (h : resultIs r p = true) : ∃ t, r = .next t ∧ p t = true := by
  unfold resultIs at h
  split at h
  · exact ⟨_, rfl, h⟩
  · simp at h
  · simp at h

/-- `EndsIn` with a property of the last state, as a computation. -/
def endsInWith (n : Nat) (s : State) (p : State → Bool) : Bool :=
  decide (1 < n) && resultIs (run n s) (fun t => decide (t.phase = .idle) && p t) &&
    (List.range n).all fun k => decide (k = 0) || resultIs (run k s) State.busy

theorem endsIn_of_endsInWith {n : Nat} {s : State} {p : State → Bool} (h : endsInWith n s p = true) :
    ∃ t, EndsIn n s t ∧ p t = true := by
  simp only [endsInWith, Bool.and_eq_true, decide_eq_true_eq, List.all_eq_true, List.mem_range, Bool.or_eq_true] at h
  obtain ⟨⟨h1, h2⟩, h3⟩ := h
  obtain ⟨t, ht, hp⟩ := next_of_resultIs h2
  simp only [Bool.and_eq_true, decide_eq_true_eq] at hp
  refine ⟨t, ⟨h1, ht, hp.1, ?_⟩, hp.2⟩
  intro k hk hn
  rcases h3 k hn with h | h
  · omega
  · exact next_of_resultIs h

/-! ### WellFormed: each check refuses an ill-formed term -/

theorem test_wf_read_no_position : (Instr.read 0x0000#16 0).wf (smallConfig .burst) = false := by decide
theorem test_wf_read_past_end : (Instr.read 0x000F#16 2).wf (smallConfig .burst) = false := by decide
theorem test_wf_write_no_data : (Instr.write 0x0000#16 []).wf (smallConfig .burst) = false := by decide
theorem test_wf_write_over_page : (Instr.write 0x0000#16 [1#8, 2#8, 3#8, 4#8, 5#8]).wf (smallConfig .burst) = false := by decide
theorem test_wf_write_past_end : (Instr.write 0x0010#16 [1#8]).wf (smallConfig .burst) = false := by decide
theorem test_wf_write_crosses_page : (Instr.write 0x0003#16 [1#8, 2#8]).wf (smallConfig .burst) = false := by decide
theorem test_wf_host_address : (Instr.hostRead 256 0 []).wf (smallConfig .burst) = false := by decide
theorem test_wf_host_count : (Instr.hostWrite 0 256 []).wf (smallConfig .burst) = false := by decide
theorem test_wf_accepts_every_kind :
    ∀ i ∈ [Instr.wren, .wrdi, .rdsr, .read 0x000F#16 1, .read 0x0000#16 16, .write 0x000C#16 [1#8, 2#8, 3#8, 4#8], .init,
      .hostRead 255 255 [], .hostWrite 255 255 []], i.wf (smallConfig .burst) = true := by decide

/-! ### Decode: words written out bit by bit from 30_encoding R81, R82, R85, R92 -/

theorem test_decode_wren : decodeFrame [0b00000110#8] = .ok .wren := by decide
theorem test_decode_wrdi : decodeFrame [0b00000100#8] = .ok .wrdi := by decide
theorem test_decode_rdsr : decodeFrame [0b00000101#8, 0b10101010#8] = .ok .rdsr := by decide
/-- 95_test_vectors, READ of two bytes from 0x003D. -/
theorem test_decode_read :
    decodeFrame [0b00000011#8, 0b00000000#8, 0b00111101#8, 0b00000000#8, 0b00000000#8] = .ok (.read 0x003D#16 2) := by decide
/-- 95_test_vectors V90: `T[02 3F FF 5A]`. -/
theorem test_decode_write :
    decodeFrame [0b00000010#8, 0b00111111#8, 0b11111111#8, 0b01011010#8] = .ok (.write 0x3FFF#16 [0x5A#8]) := by decide
theorem test_decode_init : decodeRequest (vectorConfig .burst) ⟨0b00#2, 9, 9, []⟩ = .ok .init := by decide
theorem test_decode_host_read :
    decodeRequest (vectorConfig .burst) ⟨0b01#2, 0x003D, 2, [0#8]⟩ = .ok (.hostRead 0x003D 2 [0#8]) := by decide
theorem test_decode_host_write :
    decodeRequest (vectorConfig .burst) ⟨0b10#2, 0x3FFF, 1, [0x5A#8]⟩ = .ok (.hostWrite 0x3FFF 1 [0x5A#8]) := by decide
theorem test_decode_reserved : decodeRequest (vectorConfig .burst) ⟨0b11#2, 0, 0, []⟩ = .error .reservedOperation := by decide
theorem test_decode_too_wide :
    decodeRequest (vectorConfig .burst) ⟨0b01#2, 0x10000, 0, []⟩ = .error .operandTooWide := by decide
theorem test_decode_unknown : decodeFrame [0x07#8] = .error (.unknownOpcode 0x07#8) := by decide
theorem test_decode_empty : decodeFrame [] = .error .emptyFrame := by decide
theorem test_decode_short : decodeFrame [0x03#8, 0x00#8] = .error .frameTooShort := by decide
theorem test_decode_long : decodeFrame [0x06#8, 0x00#8] = .error .frameTooLong := by decide
theorem test_decode_no_data : decodeFrame [0x02#8, 0x00#8, 0x3D#8] = .error .noDataPosition := by decide
theorem test_encode_write : encode (vectorConfig .burst) (.write 0x3FFF#16 [0x5A#8]) = .frame [0x02#8, 0x3F#8, 0xFF#8, 0x5A#8] := by
  decide

/-! ### Each row of the opcode table, placed where the first step after reset runs it -/

theorem test_fetch_wren : resultIs (step (State.reset.withFetchWord 8 0x06)) (fun t => decide (t.phase = .wrenOp)) = true := by
  decide
theorem test_fetch_wrdi : resultIs (step (State.reset.withFetchWord 8 0x04)) (fun t => decide (t.phase = .wrdiOp)) = true := by
  decide
theorem test_fetch_rdsr : resultIs (step (State.reset.withFetchWord 8 0x05)) (fun t => decide (t.phase = .pollOp)) = true := by
  decide
theorem test_fetch_read :
    resultIs (step (State.reset.withFetchWord 24 0x3D0003)) (fun t => decide (t.phase = .rdOp ∧ t.A = 0x003D)) = true := by decide
theorem test_fetch_write :
    resultIs (step (State.reset.withFetchWord 24 0x3D0002)) (fun t => decide (t.phase = .wrOp ∧ t.cur = 0x003D)) = true := by
  decide
theorem test_fetch_init : resultIs (step (State.reset.withFetchWord 2 0)) (fun t => decide (t.phase = .idle)) = true := by decide
theorem test_fetch_host_read :
    resultIs (step (State.reset.withFetchWord 2 1)) (fun t => decide (t.phase = .check ∧ t.op = .read)) = true := by decide
theorem test_fetch_host_write :
    resultIs (step (State.reset.withFetchWord 2 2)) (fun t => decide (t.phase = .check ∧ t.op = .write)) = true := by decide
theorem test_table_words : Obligations.TableWords := by
  unfold Obligations.TableWords
  decide

/-! ### Single steps from the vectors -/

/-- V90 step 1. -/
theorem test_accept_write :
    resultIs (step { vec .idle with requests := [⟨0b10#2, 0x3FFF, 1, [0x5A#8]⟩] })
      (fun t => decide (t.op = .write ∧ t.A = 0x3FFF ∧ t.N = 1 ∧ t.trace = [.req .write 0x3FFF 1] ∧ t.phase = .check)) = true := by
  decide
/-- V90 step 2. -/
theorem test_check_in_range :
    resultIs (step { vec .check with op := .write, A := 0x3FFF, N := 1 })
      (fun t => decide (t.rstat = .ok ∧ t.cur = 0x3FFF ∧ t.phase = .split ∧ t.trace = [])) = true := by decide
/-- V72: the sum does not wrap. -/
theorem test_check_exact_sum :
    resultIs (step { vec .check with op := .read, A := 0x0001, N := 0xFFFF })
      (fun t => decide (t.rstat = .outOfRange ∧ t.phase = .resp)) = true := by decide
/-- V90 step 3. -/
theorem test_split_to_page_end :
    resultIs (step { vec .split with op := .write, A := 0x3FFF, N := 1, cur := 0x3FFF })
      (fun t => decide (t.n = 1 ∧ t.phase = .pollSel)) = true := by decide
/-- The document's split, S8: three bytes to the boundary. -/
theorem test_split_three_bytes :
    resultIs (step { vec .split with op := .write, A := 0x003D, N := 6, cur := 0x003D }) (fun t => decide (t.n = 3)) = true := by
  decide
/-- V90 step 6: the byte of the second exchange, here 0x81 with WIP set. -/
theorem test_poll_keeps_second_byte :
    resultIs (step { vec .pollDummy with device := { Device.initial with wip := true, frame := [0x05#8] }, replies := [0x80#8] })
      (fun t => decide (t.sr = 0x81#8 ∧ t.trace = [.xfer 0x00#8 0x81#8])) = true := by decide
/-- 42_status_poller R160: `0x03` is busy, `0xFE` is idle. -/
theorem test_poll_test_busy :
    resultIs (step { vec .pollTest with sr := 0x03#8, op := .write }) (fun t => decide (t.phase = .pollSel)) = true := by decide
theorem test_poll_test_idle :
    resultIs (step { vec .pollTest with sr := 0xFE#8, op := .write }) (fun t => decide (t.phase = .wrenSel)) = true := by decide
/-- V85: the second byte's address carries into the high byte. -/
theorem test_read_address_carries :
    resultIs (step { vec .rdAh with A := 0x00FF, N := 2, i := 1, replies := [0x55#8] })
      (fun t => decide (t.trace = [.xfer 0x01#8 0x55#8])) = true := by decide
/-- V116: the second of three bytes. -/
theorem test_read_stores_next_byte :
    resultIs (step { vec .rdData with
        A := 0x003D, N := 3, i := 1, dst := [0xA1#8, 0#8, 0#8],
        device := { Device.initial with
          mem := [(0x3D, 0xA1#8), (0x3E, 0xA2#8), (0x3F, 0xA3#8)], frame := [0x03#8, 0x00#8, 0x3D#8, 0x00#8] } })
      (fun t => decide (t.dst = [0xA1#8, 0xA2#8, 0#8] ∧ t.i = 2 ∧ t.phase = .rdData)) = true := by decide
/-- V90 step 17. -/
theorem test_write_address_low :
    resultIs (step { vec .wrAl with cur := 0x3FFF, n := 1, i := 7, replies := [0x00#8] })
      (fun t => decide (t.trace = [.xfer 0xFF#8 0x00#8] ∧ t.i = 0)) = true := by decide
/-- P1, the first byte of the second chunk: source index `cur - A`. -/
theorem test_write_source_index :
    resultIs (step { vec .wrData with
        A := 0x003D, N := 6, cur := 0x0040, n := 3, i := 0, replies := [0x00#8],
        src := [0xA1#8, 0xA2#8, 0xA3#8, 0xA4#8, 0xA5#8, 0xA6#8] })
      (fun t => decide (t.trace = [.xfer 0xA4#8 0x00#8] ∧ t.i = 1 ∧ t.phase = .wrData)) = true := by decide
/-- V90 step 24. -/
theorem test_wrdi_advances :
    resultIs (step { vec .wrdiHold with op := .write, A := 0x3FFF, N := 1, cur := 0x3FFF, n := 1, delays := [3] })
      (fun t => decide (t.cur = 0x4000 ∧ t.phase = .split ∧ t.trace = [.hold 53])) = true := by decide
/-- V90 step 12. -/
theorem test_wren_deselect :
    resultIs (step { vec .wrenDesel with csSel := true, linkEn := true, device := { Device.initial with frame := [0x06#8] } })
      (fun t => decide (t.csSel = false ∧ t.linkEn = false ∧ t.device.wel = true ∧ t.trace = [.desel])) = true := by decide
/-- V102, V103. -/
theorem test_init_from_reset :
    resultIs (step { vec .uninit with requests := [⟨0b00#2, 0, 0, []⟩] })
      (fun t => decide (t.phase = .idle ∧ t.trace = [.init])) = true := by decide
theorem test_init_again :
    resultIs (step { vec .idle with requests := [⟨0b00#2, 0, 0, []⟩], A := 5 })
      (fun t => decide (t.phase = .idle ∧ t.trace = [.init] ∧ t.A = 5)) = true := by decide
/-- V100, V101, V104: refused, no event. -/
theorem test_refused_before_init :
    (∀ k ∈ [0b01#2, 0b10#2, 0b11#2], resultIs (step { vec .uninit with requests := [⟨k, 0, 1, [0#8]⟩] })
      (fun t => decide (t.phase = .uninit ∧ t.trace = [])) = true) := by decide
/-- V105. -/
theorem test_busy_port_waits :
    resultIs (step { vec .pollSel with requests := [⟨0b01#2, 0, 1, [0#8]⟩] })
      (fun t => decide (t.requests = [⟨0b01#2, 0, 1, [0#8]⟩] ∧ t.phase = .pollOp)) = true := by decide
/-- V106, V107. -/
theorem test_reset_idle :
    resultIs (step { vec .idle with schedule := [.reset] }) (fun t => decide (t.phase = .uninit ∧ t.recordedFault = none)) = true := by
  decide
theorem test_reset_in_frame :
    resultIs (step { vec .wrData with schedule := [.reset], csSel := true, linkEn := true })
      (fun t => decide (t.phase = .uninit ∧ t.csSel = false ∧ t.linkEn = false ∧ t.recordedFault = some .abortedTransaction)) =
      true := by decide
/-- V111: the WRITE is pending, the array unchanged. -/
theorem test_device_takes_write :
    { Device.initial with wel := true, frame := [0x02#8, 0x00#8, 0x3D#8, 0xA1#8, 0xA2#8, 0xA3#8] }.deselect
      (vectorConfig .burst) =
    .ok { Device.initial with wel := true, wip := true, pend := [(0x3D, 0xA1#8), (0x3E, 0xA2#8), (0x3F, 0xA3#8)] } := by rfl
/-- V112: a busy device rejects WRDI. -/
theorem test_device_rejects_wrdi :
    { Device.initial with wel := true, wip := true, frame := [0x04#8] }.deselect (vectorConfig .burst) =
    .ok { Device.initial with wel := true, wip := true } := by rfl
/-- V114. -/
theorem test_device_completes :
    { Device.initial with wel := true, wip := true, pend := [(0x3D, 0xA1#8), (0x3E, 0xA2#8)] }.complete =
    { Device.initial with mem := [(0x3D, 0xA1#8), (0x3E, 0xA2#8)] } := by decide
theorem test_reset_memory_canonical : State.reset.device.mem.wf = true := by decide
theorem test_write_blank_removes : Memory.write [(3, 0x11#8)] 3 0x00#8 = [] := by decide

/-! ### Witnesses: for each obligation with hypotheses, states and operands that meet them

A clause of a statement has a line of its witness, at a boundary value of its range where it has one. -/

/-- A device of the reference kind with every byte of the small array listed. -/
def stocked : Device :=
  ⟨.reference, [(0, 0xA0#8), (3, 0xA3#8), (14, 0xAE#8), (15, 0xAF#8)], false, [], false, []⟩

/-- A controller's turn from an empty schedule, and one from its own move. -/
theorem turn_empty (p : Phase) : ControllersTurn (small p) (small p) := .inl ⟨rfl, rfl⟩
theorem turn_scheduled (p : Phase) : ControllersTurn { small p with schedule := [.controller] } (small p) := .inr ⟨[], rfl, rfl⟩

theorem witness_DecodeOfEncode :
    ∀ i ∈ [Instr.wren, .wrdi, .rdsr, .read 0x000F#16 1, .read 0x0000#16 16, .write 0x000C#16 [1#8, 2#8, 3#8, 4#8], .init,
      .hostRead 255 255 [], .hostWrite 255 255 []], i.wf (smallConfig .burst) = true := by decide

theorem witness_EncodeOfDecode :
    decodeFrame [0x05#8, 0xAB#8] = .ok .rdsr ∧ decodeFrame [0x03#8, 0#8, 0#8, 0xFF#8] = .ok (.read 0#16 1) ∧
      decodeFrame [0x02#8, 0#8, 0#8, 1#8] = .ok (.write 0#16 [1#8]) ∧ decodeFrame [0x06#8] = .ok .wren ∧
      decodeRequest (smallConfig .burst) ⟨1#2, 255, 255, []⟩ = .ok (.hostRead 255 255 []) ∧
      decodeRequest (smallConfig .burst) ⟨2#2, 255, 255, []⟩ = .ok (.hostWrite 255 255 []) := by decide

theorem witness_OpcodeMap :
    decodeFrame [0x04#8] = .ok .wrdi ∧ (0x01#8 : Byte) ≠ 0x02#8 ∧ (0x07#8 : Byte) ≠ 0x06#8 ∧
      decodeRequest (smallConfig .burst) ⟨3#2, 0, 0, []⟩ = .error .reservedOperation := by decide

theorem witness_AddressField :
    ControllersTurn { small .rdAh with A := 14, i := 1 } { small .rdAh with A := 14, i := 1 } ∧
    ControllersTurn { small .rdAl with A := 14, i := 1 } { small .rdAl with A := 14, i := 1 } ∧
    ControllersTurn { small .wrAh with cur := 15 } { small .wrAh with cur := 15 } ∧
    ControllersTurn { small .wrAl with cur := 15 } { small .wrAl with cur := 15 } ∧ 15 < (smallConfig .burst).maxAddress ∧
    RegisterInv { small .rdAh with A := 15, N := 1 } ∧ RegisterInv { small .rdAl with A := 15, N := 1 } := by
  refine ⟨.inl ⟨rfl, rfl⟩, .inl ⟨rfl, rfl⟩, .inl ⟨rfl, rfl⟩, .inl ⟨rfl, rfl⟩, by decide, ?_, ?_⟩ <;>
    exact ⟨by decide, by decide, ⟨by decide, by decide, rfl⟩, rfl, by decide, fun _ => rfl⟩

theorem witness_StepRunsTheInstruction :
    ControllersTurn (small .uninit) (small .uninit) ∧ ControllersTurn { small .idle with schedule := [.controller] } (small .idle) ∧
    decode (smallConfig .burst) (.request ⟨0#2, 0, 0, []⟩) = .ok .init ∧
    decode (smallConfig .burst) (.request ⟨3#2, 0, 0, []⟩) = .error .reservedOperation ∧
    frameInFlight (small .wrenSel) = some [0x06#8] ∧ parseFrame [0x06#8] = .ok .wren ∧
    frameInFlight (small .check) = none ∧ decodeFrame [0x06#8] = .ok .wren :=
  ⟨.inl ⟨rfl, rfl⟩, .inr ⟨[], rfl, rfl⟩, by decide, by decide, by decide, by decide, by decide, by decide⟩

theorem witness_TransportPrimitives : Device.initial.deselect (smallConfig .burst) = .ok Device.initial := by rfl

theorem witness_WriteEnableRows :
    { Device.initial with frame := [0x06#8] }.deselect (smallConfig .burst) = .ok { Device.initial with wel := true } ∧
    { Device.initial with frame := [0x04#8] }.deselect (smallConfig .burst) = .ok Device.initial := ⟨by rfl, by rfl⟩

theorem witness_RdsrRows :
    { Device.initial with frame := [0x05#8, 0x00#8] }.deselect (smallConfig .burst) = .ok Device.initial := by rfl

theorem witness_ReadRows :
    { Device.initial with frame := [0x03#8, 0#8, 0#8, 0#8] }.deselect (smallConfig .burst) = .ok Device.initial ∧
    ({ small .rdData with dst := [0#8] }).i < [0#8].length ∧ ({ small .rdHold with N := 1 }).i < 1 ∧
    (small .rdHold).i = (small .rdHold).N := ⟨by rfl, by decide, by decide, by decide⟩

theorem witness_WriteRows :
    { Device.initial with frame := [0x02#8, 0#8, 0#8, 7#8], wel := true }.deselect (smallConfig .burst) =
      .ok { Device.initial with wel := true, wip := true, pend := [(0, 7#8)] } ∧
    ({ small .wrData with n := 2 }).i + 1 < 2 ∧ ({ small .wrData with n := 1 }).i + 1 = 1 := ⟨by rfl, by decide, by decide⟩

theorem witness_WireCommandsStop :
    (∀ p ∈ [Phase.wrenSel, .wrenOp, .wrenDesel, .wrenHold], (small .wrdiSel).phase ≠ p) ∧
    (∀ p ∈ [Phase.wrdiSel, .wrdiOp, .wrdiDesel, .wrdiHold], (small .wrenSel).phase ≠ p) ∧
    (∀ p ∈ [Phase.pollSel, .pollOp, .pollDummy, .pollDesel, .pollHold], (small .pollTest).phase ≠ p) ∧
    (∀ p ∈ [Phase.rdSel, .rdOp, .rdAh, .rdAl, .rdData, .rdDesel, .rdHold], (small .idle).phase ≠ p) ∧
    (∀ p ∈ [Phase.wrSel, .wrOp, .wrAh, .wrAl, .wrData, .wrDesel, .wrHold], (small .wrdiSel).phase ≠ p) ∧
    (small .rdData).dst.length ≤ (small .rdData).i ∧ ({ small .wrData with n := 1 }).i < 1 := by decide

theorem witness_WriteEnableTransactions : (small .wrenSel).schedule = [] ∧ (small .wrdiSel).phase = .wrdiSel := by decide

theorem witness_RdsrTransaction :
    (small .pollSel).schedule = [] ∧ (small .pollSel).device.kind = .reference ∧
      ({ small .pollSel with device := { Device.initial with kind := .arbitrary } }).device.kind = .arbitrary := by decide

theorem witness_ReadTransaction :
    ∀ f ∈ [ReadFraming.burst, .perByte],
      let s := { State.resetOf (smallConfig f) with phase := .rdSel, A := 14, N := 2, dst := [0#8, 0#8], device := stocked }
      s.schedule = [] ∧ s.i < s.N ∧ s.i + pendingPositions s ≤ s.dst.length ∧ s.device.wip = false ∧
        s.A + s.i + pendingPositions s ≤ s.config.maxAddress := by decide

theorem witness_WriteTransaction :
    let s := { small .wrSel with op := .write, A := 11, N := 5, cur := 12, n := 4, src := [0#8, 1#8, 2#8, 3#8, 4#8] }
    RegisterInv s ∧ s.cur - s.A + s.n ≤ s.src.length ∧ s.schedule = [] :=
  ⟨⟨by decide, by decide, ⟨by decide, by decide, rfl⟩, rfl, by decide, by decide, by decide, by decide⟩, by decide, rfl⟩

theorem witness_AwaitIdlePolls :
    let s := { small .pollSel with
      device := { Device.initial with kind := .arbitrary }, replies := [9#8, 0x01#8, 9#8, 0xFF#8, 9#8, 0xFE#8] }
    s.device.kind = .arbitrary ∧ (∀ p ∈ [(9#8, 0x01#8), (9#8, 0xFF#8)], statusBusy p.2 = true) ∧ statusBusy 0xFE#8 = false ∧
      s.replies = [(9#8, 0x01#8), (9#8, 0xFF#8)].flatMap (fun p => [p.1, p.2]) ++ 9#8 :: 0xFE#8 :: [] :=
  ⟨rfl, by simp [statusBusy], by decide, rfl⟩

theorem witness_BusyDeviceHangs :
    let s := { small .pollSel with device := { Device.initial with wip := true } }
    s.phase = .pollSel ∧ s.schedule = [] ∧ s.device.kind = .reference ∧ s.device.wip = true := by decide

theorem witness_InitOperation :
    (small .uninit).phase = .uninit ∧ (small .idle).phase = .idle ∧ (small .check).busy = true ∧ (small .resp).busy = true := by
  decide

theorem witness_HostOperationRows :
    ({ small .check with A := 15, N := 2 }).A + 2 > (smallConfig .burst).maxAddress ∧
    ({ small .check with A := 16 }).A ≥ (smallConfig .burst).maxAddress ∧
    ({ small .check with A := 15, N := 1 }).A + 1 ≤ (smallConfig .burst).maxAddress ∧
    ({ small .split with A := 3, N := 1, cur := 4 }).cur = 3 + 1 ∧ ({ small .split with A := 3, N := 1, cur := 3 }).cur ≠ 3 + 1 ∧
    (0x01#8).getLsbD 0 = true ∧ (0xFE#8).getLsbD 0 = false ∧ frameInFlight (small .wrdiHold) ≠ none := by decide

theorem witness_AcceptRequest :
    ControllersTurn { small .idle with requests := [⟨1#2, 255, 255, []⟩] } { small .idle with requests := [⟨1#2, 255, 255, []⟩] } ∧
    (1#2 : BitVec 2) = HostOp.code .read ∧ (2#2 : BitVec 2) = HostOp.code .write ∧ 255 < 2 ^ (smallConfig .burst).operandWidth ∧
    ControllersTurn (small .resp) (small .resp) ∧ (small .resp).busy = true ∧ (∃ u, step (small .resp) = .next u) ∧
    (∀ rest, (small .resp).schedule ≠ .reset :: rest) ∧ (small .check).busy = true ∧ ∃ u, step (small .check) = .next u :=
  ⟨.inl ⟨rfl, rfl⟩, by decide, by decide, by decide, .inl ⟨rfl, rfl⟩, by decide, ⟨_, rfl⟩,
    by simp [small, State.resetOf], by decide, _, rfl⟩

theorem witness_RequestBeforeInit :
    let s := { small .uninit with requests := [⟨2#2, 0, 1, [0#8]⟩] }
    ControllersTurn s s ∧ s.phase = .uninit ∧ s.requests = [⟨2#2, 0, 1, [0#8]⟩] := ⟨.inl ⟨rfl, rfl⟩, rfl, rfl⟩

theorem witness_RangeCheck :
    ControllersTurn (small .check) (small .check) ∧ (smallConfig .burst).maxAddress < 2 * (2 ^ (smallConfig .burst).operandWidth - 1) :=
  ⟨.inl ⟨rfl, rfl⟩, by decide⟩

theorem witness_OutOfRangeIsQuiet :
    let s := { small .idle with requests := [⟨1#2, 16, 0, []⟩] }
    LinesInv s ∧ s.schedule = [] ∧ (1#2 : BitVec 2) = HostOp.code .read ∧ outOfRange s.config 16 0 = true ∧
      16 < 2 ^ s.config.operandWidth ∧ (2#2 : BitVec 2) = HostOp.code .write ∧
      ∃ t, exec (.hostRead 16 0 []) { small .check with A := 16 } = .next t ∧ t.rstat = .outOfRange :=
  ⟨⟨rfl, rfl⟩, rfl, by decide, by decide, by decide, by decide, _, rfl, rfl⟩

theorem witness_EmptyWrite :
    let s := { small .idle with requests := [⟨2#2, 15, 0, []⟩] }
    s.phase = .idle ∧ s.schedule = [] ∧ 15 < 2 ^ s.config.operandWidth ∧ 15 < s.config.maxAddress := by decide

theorem witness_OnlyBitZeroCounts :
    ControllersTurn (small .pollTest) (small .pollTest) ∧ (0xFE#8).getLsbD 0 = (small .pollTest).sr.getLsbD 0 ∧
      ControllersTurn { small .pollTest with sr := 0x01#8 } { small .pollTest with sr := 0x01#8 } ∧
      (0xFF#8).getLsbD 0 = (0x01#8).getLsbD 0 := ⟨.inl ⟨rfl, rfl⟩, by decide, .inl ⟨rfl, rfl⟩, by decide⟩

theorem witness_WireCommandFrame :
    (∃ t, exec .wren (small .wrenSel) = .next t) ∧ (∃ t, exec .wrdi (small .wrdiHold) = .next t) ∧
    (∃ t, exec .rdsr (small .pollDummy) = .next t) ∧
    (∃ t, exec (.read 0#16 1) { small .rdData with N := 1, dst := [0#8] } = .next t) ∧
    (∃ t, exec (.write 0#16 [7#8]) { small .wrData with n := 1 } = .next t) := ⟨⟨_, rfl⟩, ⟨_, rfl⟩, ⟨_, rfl⟩, ⟨_, rfl⟩, ⟨_, rfl⟩⟩

theorem witness_HostOperationFrame :
    (∃ t, exec .init (small .uninit) = .next t) ∧ (∃ t, exec .init (small .idle) = .next t) ∧
    (∃ t, exec (.hostRead 3 1 [0#8]) (small .idle) = .next t) ∧ (∃ t, exec (.hostWrite 3 1 [0#8]) (small .idle) = .next t) ∧
    (∃ t, exec (.hostRead 0 0 []) (small .check) = .next t) ∧ (∃ t, exec (.hostWrite 0 0 []) (small .split) = .next t) ∧
    (∃ t, exec (.hostRead 0 0 []) (small .pollTest) = .next t) :=
  ⟨⟨_, rfl⟩, ⟨_, rfl⟩, ⟨_, rfl⟩, ⟨_, rfl⟩, ⟨_, rfl⟩, ⟨_, rfl⟩, ⟨_, rfl⟩⟩

theorem witness_DeviceReturns :
    ({ stocked with frame := [0x05#8] }).kind = .reference ∧
    ({ stocked with frame := [0x03#8, 0x00#8, 0x0E#8, 0x00#8] }).frame = 0x03#8 :: 0x00#8 :: 0x0E#8 :: [0x00#8] ∧
    (0x00#8).toNat * 256 + (0x0E#8).toNat + [0x00#8].length < (smallConfig .burst).maxAddress ∧
    (smallConfig .burst).maxAddress ≤ (0x00#8).toNat * 256 + (0x0F#8).toNat + [0x00#8].length ∧
    (∀ h l more, stocked.frame ≠ 0x03#8 :: h :: l :: more) ∧ stocked.frame ≠ [0x05#8] :=
  ⟨rfl, rfl, by decide, by decide, by simp [stocked], by simp [stocked]⟩

theorem witness_DeviceTakesFrame :
    stocked.kind = .reference ∧ ({ stocked with frame := [0x06#8], wip := true }).wip = true ∧ stocked.wip = false ∧
    stocked.wel = false ∧ ({ stocked with wel := true }).wel = true ∧
    -- a whole last page is accepted
    (4 : Nat) ≤ (smallConfig .burst).pageSize ∧ 12 + 4 ≤ (smallConfig .burst).maxAddress ∧
    12 / (smallConfig .burst).pageSize = (12 + 4 - 1) / (smallConfig .burst).pageSize ∧
    -- one byte past the end, and two bytes over a boundary, are not
    (smallConfig .burst).maxAddress < 16 + 1 ∧ 3 / (smallConfig .burst).pageSize ≠ (3 + 2 - 1) / (smallConfig .burst).pageSize := by
  decide

theorem witness_CompleteCommits :
    let d : Device := { stocked with wip := true, pend := [(3, 1#8), (4, 2#8), (3, 5#8)] }
    d.kind = .reference ∧ d.wip = true ∧ d.mem.wf = true ∧ (∀ x ∈ d.pend, x.1 ≠ 5) ∧
      d.pend = [(3, 1#8)] ++ (4, 2#8) :: [(3, 5#8)] ∧ (∀ x ∈ [(3, 5#8)], x.1 ≠ 4) ∧
      (∃ t, step { small .idle with device := d, schedule := [.complete] } = .next t ∧
        t.device.mem.read 3 ≠ ({ small .idle with device := d }).device.mem.read 3) ∧
      ∃ t, step { small .wrDesel with device := { stocked with wel := true, frame := [0x02#8, 0#8, 0#8, 7#8] } } = .next t ∧
        t.device.wip = true :=
  ⟨rfl, rfl, by decide, by decide, rfl, by decide, ⟨_, rfl, by decide⟩, _, rfl, by decide⟩

theorem witness_ResetState : ({ small .wrData with schedule := [.reset] }).schedule = .reset :: [] := by decide

theorem witness_ResetDuringOperation :
    (∃ t, step { small .wrData with schedule := [.reset] } = .next t) ∧ ({ small .wrData with schedule := [.reset] }).busy = true ∧
    (∃ t, step { small .idle with schedule := [.reset] } = .next t) ∧ ({ small .idle with schedule := [.reset] }).busy = false ∧
    (∃ t, step { small .idle with recordedFault := some .abortedTransaction } = .next t) :=
  ⟨⟨_, rfl⟩, by decide, ⟨_, rfl⟩, by decide, _, rfl⟩

theorem witness_ChunkLength :
    let s := { small .split with op := .write, A := 3, N := 13, cur := 3 }
    ControllersTurn s s ∧ RegisterInv s ∧ s.phase = .split ∧ 3 < 3 + 13 ∧ ∃ u, step s = .next u ∧ u.phase = .pollSel :=
  ⟨.inl ⟨rfl, rfl⟩, ⟨by decide, by decide, ⟨by decide, by decide, rfl⟩, rfl, by decide, by decide⟩, rfl, by decide, _, rfl, rfl⟩

theorem witness_ChunksInOnePage : (12, 4) ∈ chunksOf (smallConfig .burst) 3 13 ∧ (3, 1) ∈ chunksOf (smallConfig .burst) 3 13 := by
  decide

theorem witness_ChunksCover :
    let s := { small .wrdiHold with op := .write, A := 3, N := 13, cur := 12, n := 4, i := 4 }
    ControllersTurn s s ∧ RegisterInv s ∧ s.op = .write ∧ (∃ u, step s = .next u) ∧ 3 + 13 ≤ (smallConfig .burst).maxAddress ∧
      chunksOf (smallConfig .burst) 3 2 = [] ++ (3, 1) :: (4, 1) :: [] :=
  ⟨.inl ⟨rfl, rfl⟩, ⟨by decide, by decide, ⟨by decide, by decide, rfl⟩, ⟨rfl, by decide, by decide, by decide, by decide⟩, rfl⟩,
    rfl, ⟨_, rfl⟩, by decide, by decide⟩

theorem witness_ChunkShape :
    (chunksOf (smallConfig .burst) 3 1).length = 1 ∧ (chunksOf (smallConfig .burst) 3 2).length = 2 ∧
      (chunksOf (smallConfig .burst) 3 13).length = 4 := by decide

theorem witness_ChunkBoundaries : (vectorConfig .burst).maxAddress = 0x4000 ∧ (vectorConfig .burst).pageSize = 64 := by decide

theorem witness_DerivedPorts : (0 : Nat) ≠ 1 ∧ (1 : Nat) ≠ 0 := by decide

theorem witness_BusyPortWaits :
    (small .check).busy = true ∧ (∃ t, controllerStep (small .check) = .next t) ∧
      ∃ f, controllerStep { small .rdData with N := 1 } = .fault f := ⟨by decide, ⟨_, rfl⟩, _, rfl⟩

theorem witness_ReceivedByteDiscarded :
    ∀ p ∈ [Phase.pollOp, .rdOp, .rdAh, .rdAl, .wrenOp, .wrOp, .wrAh, .wrAl, .wrData, .wrdiOp],
      resultIs (controllerStep { small p with n := 1, src := [7#8], replies := [1#8, 2#8] }) (fun _ => true) = true := by decide

theorem witness_DeadRegistersUnobserved :
    (small .idle).blotRegisters =
      ({ small .idle with op := .write, A := 5, N := 6, cur := 7, n := 8, i := 9, sr := 1#8, rstat := .outOfRange }).blotRegisters ∧
    ∃ t, run 1 (small .idle) = .next t := ⟨by rfl, _, rfl⟩

/-! #### States inside an operation that meet the invariants -/

/-- The small machine a moment before the `Desel` of the RDSR of a read of address 15. -/
def polling : State :=
  { small .pollDesel with
    csSel := true, linkEn := true, A := 15, N := 1, dst := [0#8], device := { stocked with frame := [0x05#8, 0x00#8] },
    trace := [.req .read 15 1, .sel, .xfer 0x05#8 9#8, .xfer 0x00#8 0#8] }

theorem polling_inv : Inv polling := by
  refine ⟨⟨rfl, rfl⟩, ⟨by decide, by decide, ⟨by decide, by decide, rfl⟩, fun h => by cases h⟩, ⟨_, rfl, none, rfl, by decide⟩,
    ⟨by decide, ?_, ?_⟩, ?_⟩
  · unfold cellsInSpace
    decide
  · unfold cellsInSpace
    decide
  · intro _
    refine ⟨?_, by decide, by decide, by decide, by decide⟩
    intro b hb
    have : some b = some (.selected none [0x05#8, 0x00#8] 0#8) := hb.symm.trans (by rfl)
    cases this
    rfl

theorem polling_steps : ∃ t, step polling = .next t := ⟨_, rfl⟩

theorem witness_LinesKept : LinesInv polling ∧ ∃ t, step polling = .next t := ⟨polling_inv.1, polling_steps⟩
theorem witness_RegistersKept : RegisterInv polling ∧ ∃ t, step polling = .next t := ⟨polling_inv.2.1, polling_steps⟩
theorem witness_BusKept : RegisterInv polling ∧ BusInv polling ∧ ∃ t, step polling = .next t :=
  ⟨polling_inv.2.1, polling_inv.2.2.1, polling_steps⟩
theorem witness_ArrayKept : ArrayInv polling ∧ ∃ t, step polling = .next t := ⟨polling_inv.2.2.2.1, polling_steps⟩
theorem witness_DeviceKept :
    RegisterInv polling ∧ BusInv polling ∧ DeviceInv polling ∧ polling.device.kind = .reference ∧ ∃ t, step polling = .next t :=
  ⟨polling_inv.2.1, polling_inv.2.2.1, polling_inv.2.2.2.2, rfl, polling_steps⟩
theorem witness_SequencerProgress : Inv polling ∧ BuffersFit polling ∧ polling.busy = true ∧ polling.schedule = [] :=
  ⟨polling_inv, ⟨by decide, by decide⟩, by decide, rfl⟩

/-- The trace of one page of a write, with what comes before it, up to the end of its WRDI. -/
def pageTrace : List Event :=
  [.req .write 3 1, .sel, .xfer 0x05#8 9#8, .xfer 0x00#8 0xFE#8, .desel, .hold 50, .sel, .xfer 0x06#8 9#8, .desel, .hold 50,
    .sel, .xfer 0x02#8 9#8, .xfer 0x00#8 9#8, .xfer 0x03#8 9#8, .xfer 0x07#8 9#8, .desel, .hold 50, .sel, .xfer 0x04#8 9#8, .desel,
    .hold 50]

/-- A state of S_SPLIT after that page. -/
def pageDone : State := { small .split with op := .write, A := 3, N := 1, cur := 4, trace := pageTrace }

theorem pageDone_bus : BusInv pageDone := ⟨_, rfl, _, rfl, .inr ⟨_, rfl, rfl⟩⟩

theorem witness_DeselectTimeHeld :
    BusInv pageDone ∧ pageDone.trace = pageTrace.take 4 ++ .desel :: ([.hold 50] ++ .sel :: pageTrace.drop 7) ∧
      Event.sel ∉ [Event.hold 50] := ⟨pageDone_bus, by decide, by decide⟩

theorem witness_WriteBracketed :
    BusInv pageDone ∧ pageDone.trace = pageTrace.take 10 ++ .sel :: .xfer 0x02#8 9#8 :: pageTrace.drop 12 ∧
      pageDone.trace = pageTrace.take 6 ++ .sel :: .xfer 0x06#8 9#8 :: pageTrace.drop 8 ∧
      pageDone.trace = pageTrace.take 17 ++ .sel :: .xfer 0x04#8 9#8 :: pageTrace.drop 19 ∧
      pageTrace.drop 12 = (pageTrace.drop 12).take 5 ++ .sel :: .xfer 0x04#8 9#8 :: [.desel, .hold 50] ∧
      Event.sel ∉ (pageTrace.drop 12).take 5 ∧
      pageTrace.drop 8 = [.desel, .hold 50] ++ .sel :: .xfer 0x02#8 9#8 :: pageTrace.drop 12 ∧
      Event.sel ∉ [Event.desel, .hold 50] :=
  ⟨pageDone_bus, by decide, by decide, by decide, by decide, by decide, by decide, by decide⟩

/-! #### Whole operations -/

/-- The small machine with an idle reference device, requests on the port, and a supply of bytes for where any value comes back. -/
def ready (q : List Request) : State := { small .idle with device := stocked, requests := q, replies := List.replicate 40 0x00#8 }

/-- The small machine with a device that returns the bytes given. -/
def scripted (q : List Request) (replies : List Byte) : State :=
  { small .idle with device := { Device.initial with kind := .arbitrary }, requests := q, replies := replies }

theorem witness_WriteTraceSound :
    let s := ready [⟨2#2, 3, 1, [7#8]⟩]
    LinesInv s ∧ 3 < 2 ^ s.config.operandWidth ∧ Undisturbed s ∧ ∃ t, EndsIn 26 s t := by
  refine ⟨⟨rfl, rfl⟩, by decide, by simp [Undisturbed, ready, small, State.resetOf], ?_⟩
  have h : endsInWith 26 (ready [⟨2#2, 3, 1, [7#8]⟩]) (fun _ => true) = true := by decide
  obtain ⟨t, ht, -⟩ := endsIn_of_endsInWith h
  exact ⟨t, ht⟩

theorem witness_ReadTraceSound :
    let s := ready [⟨1#2, 3, 1, [0#8]⟩]
    LinesInv s ∧ 3 < 2 ^ s.config.operandWidth ∧ Undisturbed s ∧ ∃ t, EndsIn 16 s t := by
  refine ⟨⟨rfl, rfl⟩, by decide, by simp [Undisturbed, ready, small, State.resetOf], ?_⟩
  have h : endsInWith 16 (ready [⟨1#2, 3, 1, [0#8]⟩]) (fun _ => true) = true := by decide
  obtain ⟨t, ht, -⟩ := endsIn_of_endsInWith h
  exact ⟨t, ht⟩

theorem witness_WriteTraceComplete :
    let s := scripted [⟨2#2, 3, 1, [7#8]⟩] []
    s.phase = .idle ∧ s.schedule = [] ∧ s.device.kind = .arbitrary ∧ 3 < 2 ^ s.config.operandWidth ∧ 1 ≤ [7#8].length ∧
      IsWriteTrace s.config 3 1 [7#8] (pageTrace ++ [.resp .ok]) := by
  refine ⟨rfl, rfl, rfl, by decide, by decide, ?_⟩
  refine ⟨pageTrace.tail, ?_, rfl⟩
  refine IsPages.page 3 1 [] pageTrace.tail [] ?_ .none
  refine ⟨[.sel, .xfer 0x05#8 9#8, .xfer 0x00#8 0xFE#8, .desel, .hold 50], [.sel, .xfer 0x06#8 9#8, .desel, .hold 50],
    [.sel, .xfer 0x02#8 9#8, .xfer 0x00#8 9#8, .xfer 0x03#8 9#8, .xfer 0x07#8 9#8, .desel, .hold 50],
    [.sel, .xfer 0x04#8 9#8, .desel, .hold 50], .seen 0xFE#8 _ ⟨9#8, 50, by decide, rfl⟩ (by decide),
    ⟨[9#8], 50, rfl, by decide, rfl⟩, ⟨[9#8, 9#8, 9#8, 9#8], 50, rfl, by decide, by decide⟩,
    ⟨[9#8], 50, rfl, by decide, rfl⟩, rfl⟩

theorem witness_ReadTraceComplete :
    let s := scripted [⟨1#2, 15, 1, [0#8]⟩] []
    s.phase = .idle ∧ s.schedule = [] ∧ s.device.kind = .arbitrary ∧ 15 < 2 ^ s.config.operandWidth ∧ 1 ≤ [0#8].length ∧
      IsReadTrace s.config 15 1 [0xAF#8]
        [.req .read 15 1, .sel, .xfer 0x05#8 9#8, .xfer 0x00#8 0xFE#8, .desel, .hold 50, .sel, .xfer 0x03#8 9#8, .xfer 0x00#8 9#8,
          .xfer 0x0F#8 9#8, .xfer 0x00#8 0xAF#8, .desel, .hold 50, .resp .ok] := by
  refine ⟨rfl, rfl, rfl, by decide, by decide, ?_⟩
  exact ⟨[.sel, .xfer 0x05#8 9#8, .xfer 0x00#8 0xFE#8, .desel, .hold 50],
    [.sel, .xfer 0x03#8 9#8, .xfer 0x00#8 9#8, .xfer 0x0F#8 9#8, .xfer 0x00#8 0xAF#8, .desel, .hold 50],
    .seen 0xFE#8 _ ⟨9#8, 50, by decide, rfl⟩ (by decide), rfl, ⟨9#8, 9#8, 9#8, 50, by decide, by decide⟩, rfl⟩

theorem witness_ReadDelivers :
    let s := ready [⟨1#2, 15, 1, [0#8]⟩]
    s.phase = .idle ∧ s.schedule = [] ∧ 15 < 2 ^ s.config.operandWidth ∧ outOfRange s.config 15 1 = false ∧
      1 ≤ [0#8].length ∧ s.device.kind = .reference ∧ s.device.wip = false := by decide

theorem witness_WriteOnePage :
    let s := ready [⟨2#2, 12, 4, [1#8, 2#8, 3#8, 4#8]⟩]
    s.phase = .idle ∧ s.schedule = [] ∧ outOfRange s.config 12 4 = false ∧ 4 ≤ toPageEnd s.config 12 ∧
      4 ≤ [1#8, 2#8, 3#8, 4#8].length ∧ s.device.kind = .reference ∧ s.device.wip = false := by decide

theorem witness_WriteEndsUnderSomeSchedule :
    let s := ready [⟨2#2, 3, 2, [1#8, 2#8]⟩]
    s.phase = .idle ∧ outOfRange s.config 3 2 = false ∧ 2 ≤ [1#8, 2#8].length ∧ s.device.kind = .reference ∧
      s.device.mem.wf = true ∧ s.device.wip = false ∧ s.device.pend = [] := by decide

/-- The controller and the device in turn. -/
def inTurn (k : Nat) : Move := if k % 2 = 0 then .controller else .complete

/-- A device in a write cycle, and an execution in which it ends. -/
theorem witness_WriteEndsWithLiveDevice :
    let s := { ready [⟨2#2, 3, 2, [1#8, 2#8]⟩] with device := { stocked with wip := true, pend := [(9, 5#8)] } }
    s.phase = .idle ∧ outOfRange s.config 3 2 = false ∧ 2 ≤ [1#8, 2#8].length ∧ s.device.kind = .reference ∧
      s.device.mem.wf = true ∧ s.device.wip = true ∧ (∀ k, (inTurn k).isQuiet = true) ∧ ControllerKeepsMoving inTurn ∧
      DeviceEventuallyIdle inTurn s := by
  refine ⟨by decide, by decide, by decide, by decide, by decide, by decide, ?_, ?_, ?_⟩
  · intro k
    unfold inTurn
    split <;> rfl
  · intro k
    exact ⟨2 * k, by omega, by simp [inTurn]⟩
  · intro k _ _ _ _
    refine ⟨2 * k + 1, by omega, ?_⟩
    have : (2 * k + 1) % 2 ≠ 0 := by omega
    simp [inTurn]

/-- The round trip's premises, the device's write cycle ending right after the write's response. -/
theorem witness_RoundTrip :
    let s := { ready [⟨2#2, 3, 1, [7#8]⟩, ⟨1#2, 3, 1, [0#8]⟩] with
      schedule := List.replicate 26 .controller ++ [.complete] }
    s.phase = .idle ∧ outOfRange s.config 3 1 = false ∧ s.device.kind = .reference ∧ s.device.mem.wf = true ∧ Undisturbed s ∧
      ∃ t, run 43 s = .next t ∧ t.phase = .idle ∧ t.requests = [] := by
  refine ⟨by decide, by decide, by decide, by decide, ?_, ?_⟩
  · unfold Undisturbed
    decide
  · have h : resultIs (run 43 { ready [⟨2#2, 3, 1, [7#8]⟩, ⟨1#2, 3, 1, [0#8]⟩] with
        schedule := List.replicate 26 .controller ++ [.complete] })
        (fun t => decide (t.phase = .idle ∧ t.requests = [])) = true := by decide
    obtain ⟨t, ht, hp⟩ := next_of_resultIs h
    simp only [decide_eq_true_eq] at hp
    exact ⟨t, ht, hp⟩

end Sys2Proof.Tests
end

section
/-! SUPPORT. What the controller fetches, in the cases of `fetch`: the request on the port, the frame in flight, the latched operation;
and that the whole-frame decoder agrees with `parseFrame`, by which a frame in flight is read. -/

namespace Sys2Proof.Machine

variable {s : State}

/-! ### The controller at the request port -/

theorem controllerStep_of_request {r : Request} {rest : List Request} {i : Instr} (hp : s.phase = .uninit ∨ s.phase = .idle)
    (hr : s.requests = r :: rest) (hd : decode s.config (.request r) = .ok i) : controllerStep s = exec i s :=
  controllerStep_of_fetch (by rw [fetch_port hp]; simp [decodePort, hr, hd])

/-- Log 3: a request that decodes to nothing leaves the port and changes nothing else. -/
theorem controllerStep_of_badRequest {r : Request} {rest : List Request} {e : DecodeError}
    (hp : s.phase = .uninit ∨ s.phase = .idle) (hr : s.requests = r :: rest) (hd : decode s.config (.request r) = .error e) :
    controllerStep s = .next { s with requests := rest } := by
  have hf : fetch s = .refuse := by rw [fetch_port hp]; simp [decodePort, hr, hd]
  simp [controllerStep, hf, refuseRequest, leavePort, hr]

/-- Log 2: with no request the controller waits. -/
theorem controllerStep_of_noRequest (hp : s.phase = .uninit ∨ s.phase = .idle) (hr : s.requests = []) :
    controllerStep s = .next s := by
  have hf : fetch s = .nothing := by rw [fetch_port hp]; simp [decodePort, hr]
  simp [controllerStep, hf, wait]

/-! ### The frame in flight, and whole frames -/

/-- Everything a frame in flight can be: the frame of one of the five commands. -/
theorem frameInFlight_cases {bytes : List Byte} (h : frameInFlight s = some bytes) :
    bytes = [opcodeRdsr, s.config.dummyByte] ∨
    bytes = readFrame s.config (addressField (s.A + s.i)) (pendingPositions s) ∨
    bytes = [opcodeWren] ∨
    bytes = writeFrame (addressField s.cur) (pendingData s) ∨
    bytes = [opcodeWrdi] := by
  unfold frameInFlight at h
  split at h <;> cases h <;> simp only [true_or, or_true]

theorem parseFrame_of_frameInFlight {bytes : List Byte} (h : frameInFlight s = some bytes) : ∃ i, parseFrame bytes = .ok i := by
  rcases frameInFlight_cases h with rfl | rfl | rfl | rfl | rfl
  · exact ⟨.rdsr, parseFrame_rdsr _⟩
  · exact ⟨.read _ _, parseFrame_readFrame _ _ _⟩
  · exact ⟨.wren, parseFrame_wren⟩
  · exact ⟨.write _ _, parseFrame_writeFrame _ _⟩
  · exact ⟨.wrdi, parseFrame_wrdi⟩

/-- The check for a data position rejects an instruction or lets it through; it never answers another one. -/
theorem eq_of_requireData {i j : Instr} (h : requireData i = .ok j) : i = j := by
  unfold requireData at h
  split at h <;> cases h
  rfl

theorem parseFrame_of_decodeFrame {bytes : List Byte} {i : Instr} (h : decodeFrame bytes = .ok i) : parseFrame bytes = .ok i := by
  unfold decodeFrame at h
  split at h
  · rename_i j hj
    rw [hj, eq_of_requireData h]
  · cases h

/-! ### The moves of the other agents -/

theorem step_of_move {m : Move} {rest : List Move} (h : s.schedule = m :: rest) :
    step s = takeMove m { s with schedule := rest } := by
  simp [step, scheduledStep, h]

/-! ### The obligation -/

/-- Settles O6: the controller's clauses are the cases of `fetch` at its turn, the other agents' those of `takeMove`. -/
theorem stepRunsTheInstruction : Obligations.StepRunsTheInstruction := by
  refine ⟨fun s t ht => ?_, fun _ _ => parseFrame_of_frameInFlight, fun _ _ => parseFrame_of_decodeFrame, fun s rest => ?_⟩
  · rw [step_of_turn ht]
    exact ⟨fun r rest i => controllerStep_of_request, fun r rest e => controllerStep_of_badRequest,
      controllerStep_of_noRequest, fun bytes i hf hp => controllerStep_of_fetch (fetch_frame hf hp),
      fun hu hi hf => controllerStep_latched hf hu hi⟩
  · exact ⟨step_of_move, step_of_move, fun r => step_of_move, fun k b => step_of_move⟩

end Sys2Proof.Machine
end

section
/-! SUPPORT. The registers that reset leaves unspecified (10_state R30), taken as one value: a state with other contents in them, and the
shared operations, none of which reads them. And the converse of `controllerStep_row`: in a busy phase the row is the step. -/

namespace Sys2Proof.Machine

variable {s t : State}

/-! ### The registers as one value -/

/-- The contents of the registers that reset leaves unspecified (10_state R30). -/
structure Registers where
  op : HostOp
  A : Nat
  N : Nat
  cur : Nat
  n : Nat
  i : Nat
  sr : BitVec 8
  rstat : Status

/-- What the registers hold. -/
def State.registers (s : State) : Registers := ⟨s.op, s.A, s.N, s.cur, s.n, s.i, s.sr, s.rstat⟩

/-- The state with other contents in the registers. -/
def State.withRegisters (s : State) (r : Registers) : State :=
  { s with op := r.op, A := r.A, N := r.N, cur := r.cur, n := r.n, i := r.i, sr := r.sr, rstat := r.rstat }

theorem blotRegisters_withRegisters (s : State) (r : Registers) : (s.withRegisters r).blotRegisters = s.blotRegisters := rfl

/-- Two states that differ only in the registers. -/
theorem eq_withRegisters_of_blot {u : State} (h : s.blotRegisters = u.blotRegisters) : u = s.withRegisters u.registers :=
  calc
    u = u.blotRegisters.withRegisters u.registers := rfl
    _ = s.withRegisters u.registers := by rw [← h]; rfl

/-! ### The shared operations do not read the registers -/

theorem byteDrawn_withRegisters (s : State) (r : Registers) : (s.withRegisters r).byteDrawn = s.byteDrawn.withRegisters r := by
  cases hq : s.replies <;> simp [State.byteDrawn, State.withRegisters, hq]

theorem delayDrawn_withRegisters (s : State) (r : Registers) : (s.withRegisters r).delayDrawn = s.delayDrawn.withRegisters r := by
  cases hq : s.delays <;> simp [State.delayDrawn, State.withRegisters, hq]

theorem exchangeDrawn_withRegisters (s : State) (r : Registers) (o : Byte) :
    exchangeDrawn (s.withRegisters r) o = (exchangeDrawn s o).withRegisters r := by
  have hw : (s.withRegisters r).device.reply (s.withRegisters r).config o = s.device.reply s.config o := rfl
  cases hv : s.device.reply s.config o <;> simp only [exchangeDrawn, hw, hv, byteDrawn_withRegisters]

theorem exchange_withRegisters (s : State) (r : Registers) (o : Byte) :
    exchange (s.withRegisters r) o = (exchange s o).withRegisters r := by
  rw [exchange, exchangeDrawn_withRegisters]
  rfl

theorem hold_withRegisters (s : State) (r : Registers) : hold (s.withRegisters r) = (hold s).withRegisters r := by
  rw [hold, delayDrawn_withRegisters]
  rfl

/-! ### In a busy phase the row is the step -/

theorem deselectStep_of_deselect {p : Phase} {d : Device} (h : s.device.deselect s.config = .ok d) :
    deselectStep p s =
      .next { s with csSel := false, linkEn := false, device := d, trace := s.trace ++ [.desel], phase := p } := by
  simp [deselectStep, h]

theorem readDataRow_of_fits {m : Nat} (hm : 1 ≤ m) (hi : s.i < s.dst.length) :
    readDataRow m s = .next { exchange s s.config.dummyByte with
      dst := s.dst.set s.i (received s s.config.dummyByte), i := s.i + 1, phase := if 1 < m then .rdData else .rdDesel } := by
  have : m ≠ 0 := by omega
  simp [readDataRow, memWriteDst, this, hi]

/-- The row of S_WR_DATA, from the byte that the source buffer has for it. -/
theorem row_wrData_of_src {b : Byte} (hp : s.phase = .wrData) (hi : s.i < s.n) (hb : memReadSrc s (s.cur - s.A + s.i) = some b) :
    controllerStep s = .next { exchange s b with i := s.i + 1, phase := if s.i + 1 < s.n then .wrData else .wrDesel } := by
  rw [← pendingData_head hp hi, List.head?_eq_some_iff] at hb
  obtain ⟨rest, hd⟩ := hb
  simp [row_wrData hp, writeDataRow, hi, hd]

/-- The converse of `controllerStep_row` outside the request port, where a row's guard does not look at the request. -/
theorem controllerStep_of_row (h : Row s t) (hb : s.busy = true) : controllerStep s = .next t := by
  cases h with
  | waitUninit hp | refuseUninit hp | initUninit hp => simp [State.busy, hp] at hb
  | waitIdle hp | refuseIdle hp | initIdle hp | acceptRead _ _ hp | acceptWrite _ _ hp => simp [State.busy, hp] at hb
  | checkOut hp ho => simp [row_check hp, checkRow, ho]
  | checkRead hp ho hop => simp [row_check hp, checkRow, ho, hop]
  | checkWrite hp ho hop => simp [row_check hp, checkRow, ho, hop]
  | splitDone hp hc => simp [row_split hp, splitRow, hc]
  | splitMore hp hc => simp [row_split hp, splitRow, hc]
  | pollAgain hp hw => simp [row_pollTest hp, pollTestRow, hw]
  | pollWrite hp hw hop => simp [row_pollTest hp, pollTestRow, hw, hop]
  | pollReadNone hp hw hop hN => simp [row_pollTest hp, pollTestRow, hw, hop, hN]
  | pollRead hp hw hop hN => simp [row_pollTest hp, pollTestRow, hw, hop, hN]
  | pollSel hp => exact row_pollSel hp
  | pollOp hp => exact row_pollOp hp
  | pollDummy hp => exact row_pollDummy hp
  | pollDesel d hp hd => rw [row_pollDesel hp, deselectStep_of_deselect hd]
  | pollHold hp => exact row_pollHold hp
  | rdSel hp => exact row_rdSel hp
  | rdOp hp => exact row_rdOp hp
  | rdAh hp => exact row_rdAh hp
  | rdAl hp => exact row_rdAl hp
  | rdDataStuck hp hm => simp [row_rdData hp, readDataRow, hm, wait]
  | rdDataMore hp hm hi => rw [row_rdData hp, readDataRow_of_fits (by omega) hi, if_pos hm]
  | rdDataLast hp hm hi => rw [row_rdData hp, readDataRow_of_fits (by omega) hi, if_neg (by omega)]
  | rdDesel d hp hd => rw [row_rdDesel hp, deselectStep_of_deselect hd]
  | rdHoldMore hp hi => simp [row_rdHold hp, readHoldRow, hi, holdStep]
  | rdHoldDone hp hi => simp [row_rdHold hp, readHoldRow, hi, holdStep]
  | rdHoldStuck hp hi => simp [row_rdHold hp, readHoldRow, show ¬s.i < s.N by omega, show s.i ≠ s.N by omega, wait]
  | wrenSel hp => exact row_wrenSel hp
  | wrenOp hp => exact row_wrenOp hp
  | wrenDesel d hp hd => rw [row_wrenDesel hp, deselectStep_of_deselect hd]
  | wrenHold hp => exact row_wrenHold hp
  | wrSel hp => exact row_wrSel hp
  | wrOp hp => exact row_wrOp hp
  | wrAh hp => exact row_wrAh hp
  | wrAl hp => exact row_wrAl hp
  | wrDataStuck hp hi => simp [row_wrData hp, writeDataRow, show ¬s.i < s.n by omega, wait]
  | wrDataMore b hp hi hm => rw [row_wrData_of_src hp (by omega) hm, if_pos hi]
  | wrDataLast b hp hi hm => rw [row_wrData_of_src hp (by omega) hm, if_neg (by omega)]
  | wrDesel d hp hd => rw [row_wrDesel hp, deselectStep_of_deselect hd]
  | wrHold hp => exact row_wrHold hp
  | wrdiSel hp => exact row_wrdiSel hp
  | wrdiOp hp => exact row_wrdiOp hp
  | wrdiDesel d hp hd => rw [row_wrdiDesel hp, deselectStep_of_deselect hd]
  | wrdiHold hp => exact row_wrdiHold hp
  | resp hp => exact row_resp hp

end Sys2Proof.Machine
end

section
/-! SUPPORT. Noninterference of the registers: which of them each phase still reads, and that two states agreeing on those take the same
step and agree on those that the next phase reads. -/

namespace Sys2Proof.Machine

variable {s t : State} {r : Registers}

/-! ### What each phase still reads -/

/-- `u` has the request latches of `s`. -/
def SameRequest (s u : State) : Prop := u.op = s.op ∧ u.A = s.A ∧ u.N = s.N

/-- `u` has the chunk of `s`. -/
def SameChunk (s u : State) : Prop := u.cur = s.cur ∧ u.n = s.n

/-- In the registers whose contents a controller in phase `p` may read before it writes them, `u` agrees with `s`. -/
def SameLive (p : Phase) (s u : State) : Prop :=
  match p with
  | .uninit | .idle => True
  | .check => SameRequest s u
  | .resp => u.rstat = s.rstat
  | .split => SameRequest s u ∧ u.rstat = s.rstat ∧ u.cur = s.cur
  | .pollSel | .pollOp | .pollDummy => SameRequest s u ∧ u.rstat = s.rstat ∧ (s.op = .write → SameChunk s u)
  | .pollDesel | .pollHold | .pollTest =>
    SameRequest s u ∧ u.rstat = s.rstat ∧ (s.op = .write → SameChunk s u) ∧ u.sr = s.sr
  | .rdSel | .rdOp | .rdAh | .rdAl | .rdData | .rdDesel | .rdHold => SameRequest s u ∧ u.rstat = s.rstat ∧ u.i = s.i
  | .wrenSel | .wrenOp | .wrenDesel | .wrenHold => SameRequest s u ∧ u.rstat = s.rstat ∧ SameChunk s u
  | .wrSel | .wrOp | .wrAh | .wrAl | .wrDesel | .wrHold => SameRequest s u ∧ u.rstat = s.rstat ∧ SameChunk s u
  | .wrData => SameRequest s u ∧ u.rstat = s.rstat ∧ SameChunk s u ∧ u.i = s.i
  | .wrdiSel | .wrdiOp | .wrdiDesel | .wrdiHold => SameRequest s u ∧ u.rstat = s.rstat ∧ SameChunk s u

/-- What `SameLive` says depends on the registers alone. -/
theorem sameLive_of_eq {p : Phase} (h : SameLive p s (s.withRegisters r))
    (ht : t.registers = s.registers := by simp [State.registers]) : SameLive p t (t.withRegisters r) := by
  simp only [State.registers, Registers.mk.injEq] at ht
  simpa only [SameLive, SameRequest, SameChunk, State.withRegisters, ht] using h

@[simp] theorem reset_phase (s : State) : (reset s).phase = .uninit := by
  unfold reset
  split <;> rfl

theorem pendingPositions_of_sameLive (hl : SameLive .rdData s (s.withRegisters r)) :
    pendingPositions (s.withRegisters r) = pendingPositions s := by
  obtain ⟨⟨-, -, hN⟩, -, hi⟩ := hl
  simp only [pendingPositions, hN, hi]
  rfl

/-! ### The rows -/

/-- A row that sends a byte and leaves the registers alone, between two phases that read the same ones. -/
theorem row_send_withRegisters {q : Phase} {o o' : Byte}
    (h : Row (s.withRegisters r) ((exchange (s.withRegisters r) o').goto q)) (ho : o' = o)
    (hl : SameLive q s (s.withRegisters r)) :
    ∃ r', Row (s.withRegisters r) (((exchange s o).goto q).withRegisters r') ∧
      SameLive q ((exchange s o).goto q) (((exchange s o).goto q).withRegisters r') := by
  subst ho
  rw [exchange_withRegisters] at h
  exact ⟨r, h, sameLive_of_eq hl⟩

theorem row_hold_withRegisters {q : Phase} (h : Row (s.withRegisters r) ((hold (s.withRegisters r)).goto q))
    (hl : SameLive q s (s.withRegisters r)) :
    ∃ r', Row (s.withRegisters r) (((hold s).goto q).withRegisters r') ∧
      SameLive q ((hold s).goto q) (((hold s).goto q).withRegisters r') := by
  rw [hold_withRegisters] at h
  exact ⟨r, h, sameLive_of_eq hl⟩

/-- A row taken with other contents in the registers the phase does not read. -/
theorem row_withRegisters (h : Row s t) (hb : s.busy = true) (hl : SameLive s.phase s (s.withRegisters r)) :
    ∃ r', Row (s.withRegisters r) (t.withRegisters r') ∧ SameLive t.phase t (t.withRegisters r') := by
  cases h with
  | waitUninit hp | refuseUninit hp | initUninit hp => simp [State.busy, hp] at hb
  | waitIdle hp | refuseIdle hp | initIdle hp | acceptRead _ _ hp | acceptWrite _ _ hp => simp [State.busy, hp] at hb
  | checkOut hp ho =>
    rw [hp] at hl
    obtain ⟨-, hA, hN⟩ := hl
    exact ⟨{ r with rstat := .outOfRange }, .checkOut hp (by rw [hA, hN]; exact ho), rfl⟩
  | checkRead hp ho hop =>
    rw [hp] at hl
    obtain ⟨hop', hA, hN⟩ := hl
    exact ⟨{ r with rstat := .ok }, .checkRead hp (by rw [hA, hN]; exact ho) (hop'.trans hop),
      ⟨hop', hA, hN⟩, rfl, fun hw => by simp [hop] at hw⟩
  | checkWrite hp ho hop =>
    rw [hp] at hl
    obtain ⟨hop', hA, hN⟩ := hl
    exact ⟨{ r with rstat := .ok, cur := r.A }, .checkWrite hp (by rw [hA, hN]; exact ho) (hop'.trans hop),
      ⟨hop', hA, hN⟩, rfl, hA⟩
  | splitDone hp hc =>
    rw [hp] at hl
    obtain ⟨⟨-, hA, hN⟩, hrs, hcur⟩ := hl
    exact ⟨r, .splitDone hp (by rw [hA, hN, hcur]; exact hc), hrs⟩
  | splitMore hp hc =>
    rw [hp] at hl
    obtain ⟨⟨hop, hA, hN⟩, hrs, hcur⟩ := hl
    exact ⟨{ r with n := chunkLength s.config r.cur (r.A + r.N) }, .splitMore hp (by rw [hA, hN, hcur]; exact hc),
      ⟨hop, hA, hN⟩, hrs, fun _ => ⟨hcur, congrArg₂ (chunkLength s.config) hcur (congrArg₂ _ hA hN)⟩⟩
  | pollSel hp => rw [hp] at hl; exact ⟨r, .pollSel hp, hl⟩
  | pollOp hp => rw [hp] at hl; exact row_send_withRegisters (.pollOp hp) rfl hl
  | pollDummy hp =>
    rw [hp] at hl
    obtain ⟨hreq, hrs, hch⟩ := hl
    have hrow := Row.pollDummy (s := s.withRegisters r) hp
    rw [exchange_withRegisters] at hrow
    exact ⟨{ r with sr := received s s.config.dummyByte }, hrow,
      sameLive_of_eq (s := { s with sr := received s s.config.dummyByte }) ⟨hreq, hrs, hch, rfl⟩⟩
  | pollDesel d hp hd => rw [hp] at hl; exact ⟨r, .pollDesel d hp hd, hl⟩
  | pollHold hp => rw [hp] at hl; exact row_hold_withRegisters (.pollHold hp) hl
  | pollAgain hp hw =>
    rw [hp] at hl
    obtain ⟨hreq, hrs, hch, hsr⟩ := hl
    exact ⟨r, .pollAgain hp (by rw [hsr]; exact hw), hreq, hrs, hch⟩
  | pollWrite hp hw hop =>
    rw [hp] at hl
    obtain ⟨hreq, hrs, hch, hsr⟩ := hl
    exact ⟨r, .pollWrite hp (by rw [hsr]; exact hw) (hreq.1.trans hop), hreq, hrs, hch hop⟩
  | pollReadNone hp hw hop hN =>
    rw [hp] at hl
    obtain ⟨⟨hop', -, hN'⟩, hrs, -, hsr⟩ := hl
    exact ⟨r, .pollReadNone hp (by rw [hsr]; exact hw) (hop'.trans hop) (hN'.trans hN), hrs⟩
  | pollRead hp hw hop hN =>
    rw [hp] at hl
    obtain ⟨⟨hop', hA, hN'⟩, hrs, -, hsr⟩ := hl
    exact ⟨{ r with i := 0 }, .pollRead hp (by rw [hsr]; exact hw) (hop'.trans hop) (hN'.trans_ne hN),
      ⟨hop', hA, hN'⟩, hrs, rfl⟩
  | rdSel hp => rw [hp] at hl; exact ⟨r, .rdSel hp, hl⟩
  | rdOp hp => rw [hp] at hl; exact row_send_withRegisters (.rdOp hp) rfl hl
  | rdAh hp =>
    rw [hp] at hl
    obtain ⟨⟨-, hA, -⟩, -, hi⟩ := id hl
    exact row_send_withRegisters (.rdAh hp) (by rw [hA, hi]) hl
  | rdAl hp =>
    rw [hp] at hl
    obtain ⟨⟨-, hA, -⟩, -, hi⟩ := id hl
    exact row_send_withRegisters (.rdAl hp) (by rw [hA, hi]) hl
  | rdDataStuck hp hm =>
    rw [hp] at hl
    exact ⟨r, .rdDataStuck hp ((pendingPositions_of_sameLive hl).trans hm), by rw [hp]; exact hl⟩
  | rdDataMore hp hm hi =>
    rw [hp] at hl
    have hm' := hm.trans_eq (pendingPositions_of_sameLive hl).symm
    obtain ⟨hreq, hrs, hi'⟩ := hl
    have hrow := Row.rdDataMore (s := s.withRegisters r) hp hm' (hi'.trans_lt hi)
    rw [exchange_withRegisters, hi'] at hrow
    exact ⟨{ r with i := s.i + 1 }, hrow, sameLive_of_eq (s := { s with i := s.i + 1 }) ⟨hreq, hrs, rfl⟩⟩
  | rdDataLast hp hm hi =>
    rw [hp] at hl
    have hm' := (pendingPositions_of_sameLive hl).trans hm
    obtain ⟨hreq, hrs, hi'⟩ := hl
    have hrow := Row.rdDataLast (s := s.withRegisters r) hp hm' (hi'.trans_lt hi)
    rw [exchange_withRegisters, hi'] at hrow
    exact ⟨{ r with i := s.i + 1 }, hrow, sameLive_of_eq (s := { s with i := s.i + 1 }) ⟨hreq, hrs, rfl⟩⟩
  | rdDesel d hp hd => rw [hp] at hl; exact ⟨r, .rdDesel d hp hd, hl⟩
  | rdHoldMore hp hi =>
    rw [hp] at hl
    obtain ⟨⟨-, -, hN⟩, -, hi'⟩ := id hl
    exact row_hold_withRegisters (.rdHoldMore hp (by rw [hi', hN]; exact hi)) hl
  | rdHoldDone hp hi =>
    rw [hp] at hl
    obtain ⟨⟨-, -, hN⟩, hrs, hi'⟩ := hl
    exact row_hold_withRegisters (.rdHoldDone hp (by rw [hi', hN]; exact hi)) hrs
  | rdHoldStuck hp hi =>
    rw [hp] at hl
    obtain ⟨⟨-, -, hN⟩, -, hi'⟩ := id hl
    exact ⟨r, .rdHoldStuck hp (by rw [hi', hN]; exact hi), by rw [hp]; exact hl⟩
  | wrenSel hp => rw [hp] at hl; exact ⟨r, .wrenSel hp, hl⟩
  | wrenOp hp => rw [hp] at hl; exact row_send_withRegisters (.wrenOp hp) rfl hl
  | wrenDesel d hp hd => rw [hp] at hl; exact ⟨r, .wrenDesel d hp hd, hl⟩
  | wrenHold hp => rw [hp] at hl; exact row_hold_withRegisters (.wrenHold hp) hl
  | wrSel hp => rw [hp] at hl; exact ⟨r, .wrSel hp, hl⟩
  | wrOp hp => rw [hp] at hl; exact row_send_withRegisters (.wrOp hp) rfl hl
  | wrAh hp =>
    rw [hp] at hl
    obtain ⟨-, -, hcur, -⟩ := id hl
    exact row_send_withRegisters (.wrAh hp) (by rw [hcur]) hl
  | wrAl hp =>
    rw [hp] at hl
    obtain ⟨hreq, hrs, hch⟩ := hl
    have hrow := Row.wrAl (s := s.withRegisters r) hp
    rw [exchange_withRegisters, hch.1] at hrow
    exact ⟨{ r with i := 0 }, hrow, sameLive_of_eq (s := { s with i := 0 }) ⟨hreq, hrs, hch, rfl⟩⟩
  | wrDataStuck hp hi =>
    rw [hp] at hl
    obtain ⟨-, -, ⟨-, hn⟩, hi'⟩ := id hl
    exact ⟨r, .wrDataStuck hp (by rw [hi', hn]; exact hi), by rw [hp]; exact hl⟩
  | wrDataMore b hp hi hm =>
    rw [hp] at hl
    obtain ⟨⟨hop, hA, hN⟩, hrs, ⟨hcur, hn⟩, hi'⟩ := hl
    have hrow := Row.wrDataMore (s := s.withRegisters r) b hp (by rw [hi', hn]; exact hi) (by rw [hcur, hA, hi']; exact hm)
    rw [exchange_withRegisters, hi'] at hrow
    exact ⟨{ r with i := s.i + 1 }, hrow,
      sameLive_of_eq (s := { s with i := s.i + 1 }) ⟨⟨hop, hA, hN⟩, hrs, ⟨hcur, hn⟩, rfl⟩⟩
  | wrDataLast b hp hi hm =>
    rw [hp] at hl
    obtain ⟨⟨hop, hA, hN⟩, hrs, ⟨hcur, hn⟩, hi'⟩ := hl
    have hrow := Row.wrDataLast (s := s.withRegisters r) b hp (by rw [hi', hn]; exact hi) (by rw [hcur, hA, hi']; exact hm)
    rw [exchange_withRegisters, hi'] at hrow
    exact ⟨{ r with i := s.i + 1 }, hrow,
      sameLive_of_eq (s := { s with i := s.i + 1 }) ⟨⟨hop, hA, hN⟩, hrs, ⟨hcur, hn⟩⟩⟩
  | wrDesel d hp hd => rw [hp] at hl; exact ⟨r, .wrDesel d hp hd, hl⟩
  | wrHold hp => rw [hp] at hl; exact row_hold_withRegisters (.wrHold hp) hl
  | wrdiSel hp => rw [hp] at hl; exact ⟨r, .wrdiSel hp, hl⟩
  | wrdiOp hp => rw [hp] at hl; exact row_send_withRegisters (.wrdiOp hp) rfl hl
  | wrdiDesel d hp hd => rw [hp] at hl; exact ⟨r, .wrdiDesel d hp hd, hl⟩
  | wrdiHold hp =>
    rw [hp] at hl
    obtain ⟨hreq, hrs, hcur, hn⟩ := hl
    have hrow := Row.wrdiHold (s := s.withRegisters r) hp
    rw [hold_withRegisters, hcur, hn] at hrow
    exact ⟨{ r with cur := s.cur + s.n }, hrow, sameLive_of_eq (s := { s with cur := s.cur + s.n }) ⟨hreq, hrs, rfl⟩⟩
  | resp hp =>
    rw [hp] at hl
    have hrow := Row.resp (s := s.withRegisters r) hp
    rw [respond, show (s.withRegisters r).rstat = s.rstat from hl] at hrow
    exact ⟨{ r with rstat := s.rstat }, hrow, trivial⟩

/-! ### The request port -/

/-- A request decodes to a host operation. -/
theorem decodePort_run_cases {i : Instr} (h : decodePort s = .run i) :
    i = .init ∨ (∃ a k b, i = .hostRead a k b) ∨ ∃ a k b, i = .hostWrite a k b := by
  unfold decodePort at h
  split at h
  · cases h
  · split at h
    · rename_i q _ _ _ hd
      cases h
      rcases decodeRequest_cases hd with rfl | ⟨-, -, rfl⟩ | ⟨-, -, rfl⟩
      exacts [.inl rfl, .inr (.inl ⟨_, _, _, rfl⟩), .inr (.inr ⟨_, _, _, rfl⟩)]
    · cases h

/-- In S_UNINIT and S_IDLE no register is read before it is written. -/
theorem sameLive_port {u : State} (hp : s.phase = .uninit ∨ s.phase = .idle) : SameLive s.phase s u := by
  rcases hp with hp | hp <;> rw [hp] <;> trivial

/-- A host operation at the request port: it leaves the registers alone, or it writes the latches, which S_CHECK reads. -/
theorem exec_port_withRegisters {i : Instr} (r : Registers) (hp : s.phase = .uninit ∨ s.phase = .idle)
    (hi : decodePort s = .run i) (h : exec i s = .next t) :
    ∃ r', exec i (s.withRegisters r) = .next (t.withRegisters r') ∧ SameLive t.phase t (t.withRegisters r') := by
  have hu : (s.withRegisters r).phase = s.phase := rfl
  rcases decodePort_run_cases hi with rfl | ⟨a, k, b, rfl⟩ | ⟨a, k, b, rfl⟩
  · rcases hp with hp | hp <;> simp only [exec, execInit, hu, hp] at h ⊢ <;> cases h
    · exact ⟨r, rfl, trivial⟩
    · exact ⟨r, rfl, sameLive_port (.inr hp)⟩
  · rcases hp with hp | hp <;> simp only [exec, execHostRead, hu, hp] at h ⊢ <;> cases h
    · exact ⟨r, rfl, sameLive_port (.inl hp)⟩
    · exact ⟨{ r with op := .read, A := a, N := k }, rfl, rfl, rfl, rfl⟩
  · rcases hp with hp | hp <;> simp only [exec, execHostWrite, hu, hp] at h ⊢ <;> cases h
    · exact ⟨r, rfl, sameLive_port (.inl hp)⟩
    · exact ⟨{ r with op := .write, A := a, N := k }, rfl, rfl, rfl, rfl⟩

theorem portStep_withRegisters (r : Registers) (hp : s.phase = .uninit ∨ s.phase = .idle) (h : controllerStep s = .next t) :
    ∃ r', controllerStep (s.withRegisters r) = .next (t.withRegisters r') ∧ SameLive t.phase t (t.withRegisters r') := by
  have hu : decodePort (s.withRegisters r) = decodePort s := rfl
  unfold controllerStep at h ⊢
  rw [fetch_port hp] at h
  rw [fetch_port (s := s.withRegisters r) hp, hu]
  cases hf : decodePort s <;> rw [hf] at h
  case run i => exact exec_port_withRegisters r hp hf h
  case refuse =>
    cases h
    exact ⟨r, rfl, sameLive_port hp⟩
  case nothing =>
    cases h
    exact ⟨r, rfl, sameLive_port hp⟩

/-! ### Every step, and every number of steps -/

theorem controllerStep_withRegisters (h : controllerStep s = .next t) (hl : SameLive s.phase s (s.withRegisters r)) :
    ∃ r', controllerStep (s.withRegisters r) = .next (t.withRegisters r') ∧ SameLive t.phase t (t.withRegisters r') := by
  by_cases hb : s.busy = true
  · obtain ⟨r', hrow, hl'⟩ := row_withRegisters (controllerStep_row h) hb hl
    exact ⟨r', controllerStep_of_row hrow hb, hl'⟩
  · exact portStep_withRegisters r (by simpa [State.busy, Classical.or_iff_not_imp_left] using hb) h

theorem step_withRegisters (h : step s = .next t) (hl : SameLive s.phase s (s.withRegisters r)) :
    ∃ r', step (s.withRegisters r) = .next (t.withRegisters r') ∧ SameLive t.phase t (t.withRegisters r') := by
  rcases step_cases h with ⟨v, hturn, hc⟩ | ⟨rest, hs, rfl⟩ | ⟨rest, hs, rfl⟩ | ⟨rest, q, hs, rfl⟩ | ⟨rest, k, b, hs, rfl⟩
  · have hturn' : ControllersTurn (s.withRegisters r) (v.withRegisters r) := by
      rcases hturn with ⟨hs, rfl⟩ | ⟨rest, hs, rfl⟩
      exacts [.inl ⟨hs, rfl⟩, .inr ⟨rest, hs, rfl⟩]
    rw [step_of_turn hturn']
    refine controllerStep_withRegisters hc ?_
    rw [turn_eq hturn]
    exact hl
  · exact ⟨r, step_of_move (s := s.withRegisters r) hs, hl⟩
  · have hu : SameLive (reset { s with schedule := rest }).phase (reset { s with schedule := rest })
        (reset { s with schedule := rest }) := sameLive_port (.inl (reset_phase _))
    exact ⟨State.registers (reset { s with schedule := rest }), step_of_move (s := s.withRegisters r) hs, hu⟩
  · exact ⟨r, step_of_move (s := s.withRegisters r) hs, hl⟩
  · exact ⟨r, step_of_move (s := s.withRegisters r) hs, hl⟩

theorem run_withRegisters (k : Nat) (h : run k s = .next t) (hl : SameLive s.phase s (s.withRegisters r)) :
    ∃ r', run k (s.withRegisters r) = .next (t.withRegisters r') := by
  induction k generalizing s r with
  | zero =>
    cases h
    exact ⟨r, rfl⟩
  | succ k ih =>
    simp only [run] at h ⊢
    split at h
    · rename_i v hv
      obtain ⟨r', hv', hl'⟩ := step_withRegisters hv hl
      rw [hv']
      exact ih h hl'
    all_goals cases h

/-- Settles O42: two states that differ only in the registers run alike as long as they agree on what the phase still reads, and in
S_UNINIT and S_IDLE that is nothing. -/
theorem deadRegistersUnobserved : Obligations.DeadRegistersUnobserved := by
  intro s u hp hblot k t ht
  rw [eq_withRegisters_of_blot hblot]
  obtain ⟨r, hr⟩ := run_withRegisters k ht (sameLive_port hp)
  exact ⟨_, hr, (blotRegisters_withRegisters t r).symm, rfl, rfl⟩

end Sys2Proof.Machine
end

section
/-! SUPPORT. The register invariant through every step: the link rows leave the registers alone and pass what is
known of them on to the next phase; the rows that write a register keep it in its bounds. -/

namespace Sys2Proof.Machine

variable {s t : State}

/-! ### What the invariant depends on -/

/-- The phase's clause depends on the configuration and the registers alone. -/
theorem phaseInv_of_eq (h : PhaseInv s) (hc : t.config = s.config := by simp) (hp : t.phase = s.phase := by rfl)
    (hr : t.registers = s.registers := by simp [State.registers]) : PhaseInv t := by
  simp only [State.registers, Registers.mk.injEq] at hr
  simpa only [PhaseInv, InRange, ChunkInv, hc, hp, hr] using h

theorem phaseInv_exchange_goto {o : Byte} {q : Phase} (h : PhaseInv (s.goto q)) : PhaseInv ((exchange s o).goto q) :=
  phaseInv_of_eq h

theorem phaseInv_hold_goto {q : Phase} (h : PhaseInv (s.goto q)) : PhaseInv ((hold s).goto q) := phaseInv_of_eq h

/-! ### The bounds -/

/-- An operation that passed the range check is answered `Ok`, as the response's clause asks. -/
theorem phaseInv_resp_of_inRange (h : InRange s) : PhaseInv (s.goto .resp) := by
  obtain ⟨hA, hAN, hrs⟩ := h
  have ho : outOfRange s.config s.A s.N = false := (inRange_iff _ _ _).2 ⟨hA, hAN⟩
  show s.rstat = .outOfRange ↔ outOfRange s.config s.A s.N = true
  simp [ho, hrs]

/-- 43_page_write_splitter R172. -/
theorem chunkLength_bounds (c : Config) {cur stop : Nat} (h : cur < stop) :
    1 ≤ chunkLength c cur stop ∧ chunkLength c cur stop ≤ toPageEnd c cur ∧ cur + chunkLength c cur stop ≤ stop := by
  have := (toPageEnd_bounds c cur).1
  unfold chunkLength
  omega

/-- With more than one position to come the framing is Burst, and the byte after this one belongs to the request. -/
theorem lt_of_one_lt_pendingPositions (h : 1 < pendingPositions s) : s.i + 1 < s.N := by
  unfold pendingPositions at h
  split at h <;> omega

/-- Under Burst the last position is the request's last. -/
theorem pendingPositions_last (hf : s.config.readFraming = .burst) (h : pendingPositions s = 1) : s.i + 1 = s.N := by
  simp only [pendingPositions, hf] at h
  omega

/-! ### The rows -/

/-- The latches change at acceptance only, and take operands that fit (30_encoding R90). -/
theorem row_latches (h : Row s t) :
    (t.A = s.A ∧ t.N = s.N) ∨ (t.A < 2 ^ s.config.operandWidth ∧ t.N < 2 ^ s.config.operandWidth) := by
  cases h
  case acceptRead ha hk => exact .inr ⟨ha, hk⟩
  case acceptWrite ha hk => exact .inr ⟨ha, hk⟩
  all_goals exact .inl (by simp)

/-- Each row hands the next phase's clause what it needs: what the phase before held, and what the row has just written or tested. -/
theorem row_keeps_phaseInv (h : Row s t) (hi : PhaseInv (s.goto s.phase)) : PhaseInv t := by
  cases h with
  | waitUninit | waitIdle | rdDataStuck | rdHoldStuck | wrDataStuck => exact hi
  | refuseUninit | refuseIdle | initIdle => exact hi
  | initUninit | acceptRead | acceptWrite | resp => trivial
  | checkOut _ ho => exact ⟨fun _ => ho, fun _ => rfl⟩
  | checkRead _ ho hop =>
    obtain ⟨hA, hAN⟩ := (inRange_iff _ _ _).1 ho
    exact ⟨⟨hA, hAN, rfl⟩, fun hw => by simp [hop] at hw⟩
  | checkWrite _ ho hop =>
    obtain ⟨hA, hAN⟩ := (inRange_iff _ _ _).1 ho
    exact ⟨⟨hA, hAN, rfl⟩, hop, le_rfl, Nat.le_add_right _ _⟩
  | splitDone hp =>
    rw [hp] at hi
    exact phaseInv_resp_of_inRange hi.1
  | splitMore hp hc =>
    rw [hp] at hi
    obtain ⟨hr, hop, hle, hend⟩ := hi
    obtain ⟨h1, hpage, hstop⟩ := chunkLength_bounds s.config (lt_of_le_of_ne hend hc)
    exact ⟨hr, fun _ => ⟨hop, hle, h1, hpage, hstop⟩⟩
  | pollSel hp | pollDesel _ hp | pollAgain hp => rw [hp] at hi; exact hi
  | pollOp hp => rw [hp] at hi; exact phaseInv_exchange_goto hi
  | pollDummy hp =>
    rw [hp] at hi
    exact phaseInv_of_eq (s := { s with sr := received s s.config.dummyByte, phase := .pollDesel }) hi
  | pollHold hp => rw [hp] at hi; exact phaseInv_hold_goto hi
  | pollWrite hp _ hop =>
    rw [hp] at hi
    exact ⟨hi.1, hi.2 hop⟩
  | pollReadNone hp =>
    rw [hp] at hi
    exact phaseInv_resp_of_inRange hi.1
  | pollRead hp _ hop hN =>
    rw [hp] at hi
    exact ⟨hi.1, hop, Nat.pos_of_ne_zero hN, fun _ => rfl⟩
  | rdSel hp => rw [hp] at hi; exact hi
  | rdOp hp | rdAh hp => rw [hp] at hi; exact phaseInv_exchange_goto hi
  | rdAl hp =>
    rw [hp] at hi
    obtain ⟨hr, hop, hlt, -⟩ := hi
    exact phaseInv_exchange_goto ⟨hr, hop, hlt⟩
  | rdDataMore hp hm =>
    rw [hp] at hi
    obtain ⟨hr, hop, -⟩ := hi
    exact phaseInv_of_eq (s := { s with i := s.i + 1, phase := .rdData }) ⟨hr, hop, lt_of_one_lt_pendingPositions hm⟩
  | rdDataLast hp hm =>
    rw [hp] at hi
    obtain ⟨hr, hop, hlt⟩ := hi
    exact phaseInv_of_eq (s := { s with i := s.i + 1, phase := .rdDesel })
      ⟨hr, hop, Nat.le_add_left _ _, hlt, fun hf => pendingPositions_last hf hm⟩
  | rdDesel _ hp => rw [hp] at hi; exact hi
  | rdHoldMore hp hlt =>
    rw [hp] at hi
    obtain ⟨hr, hop, -, -, hburst⟩ := hi
    exact phaseInv_hold_goto ⟨hr, hop, hlt, fun hf => absurd (hburst hf) hlt.ne⟩
  | rdHoldDone hp =>
    rw [hp] at hi
    exact phaseInv_hold_goto (phaseInv_resp_of_inRange hi.1)
  | wrenSel hp | wrenDesel _ hp | wrSel hp | wrDesel _ hp | wrdiSel hp | wrdiDesel _ hp => rw [hp] at hi; exact hi
  | wrenOp hp | wrOp hp | wrAh hp | wrdiOp hp => rw [hp] at hi; exact phaseInv_exchange_goto hi
  | wrenHold hp | wrHold hp => rw [hp] at hi; exact phaseInv_hold_goto hi
  | wrAl hp =>
    rw [hp] at hi
    obtain ⟨hr, hch⟩ := hi
    obtain ⟨-, -, h1, -⟩ := id hch
    exact phaseInv_of_eq (s := { s with i := 0, phase := .wrData }) ⟨hr, hch, h1⟩
  | wrDataMore _ hp hlt =>
    rw [hp] at hi
    obtain ⟨hr, hch, -⟩ := hi
    exact phaseInv_of_eq (s := { s with i := s.i + 1, phase := .wrData }) ⟨hr, hch, hlt⟩
  | wrDataLast _ hp heq =>
    rw [hp] at hi
    obtain ⟨hr, hch, -⟩ := hi
    exact phaseInv_of_eq (s := { s with i := s.i + 1, phase := .wrDesel }) ⟨hr, hch, heq⟩
  | wrdiHold hp =>
    rw [hp] at hi
    obtain ⟨hr, ⟨hop, hle, -, -, hend⟩, -⟩ := hi
    exact phaseInv_of_eq (s := { s with cur := s.cur + s.n, phase := .split })
      ⟨hr, hop, hle.trans (Nat.le_add_right _ _), hend⟩

theorem row_keeps_registerInv (h : Row s t) (hi : RegisterInv s) : RegisterInv t := by
  obtain ⟨hA, hN, hph⟩ := hi
  have hph' : PhaseInv t := row_keeps_phaseInv h hph
  rw [RegisterInv, row_keeps_config h]
  rcases row_latches h with ⟨hA', hN'⟩ | ⟨hA', hN'⟩
  · exact ⟨hA'.trans_lt hA, hN'.trans_lt hN, hph'⟩
  · exact ⟨hA', hN', hph'⟩

/-! ### The moves of the other agents -/

/-- The state after a reset meets the invariant, whatever the state before. -/
theorem registerInv_reset (s : State) : RegisterInv (reset s) := by
  unfold reset
  split <;> exact ⟨Nat.two_pow_pos _, Nat.two_pow_pos _, trivial⟩

/-! ### The obligation -/

/-- Settles O44: the controller's rows keep the invariant, a reset establishes it, and no other agent touches a register. -/
theorem registersKept : Obligations.RegistersKept := by
  intro s t hi h
  rcases step_cases h with ⟨v, hturn, hc⟩ | ⟨rest, -, rfl⟩ | ⟨rest, -, rfl⟩ | ⟨rest, q, -, rfl⟩ | ⟨rest, k, b, -, rfl⟩
  · have hv : RegisterInv v := by
      rw [turn_eq hturn]
      exact hi
    exact row_keeps_registerInv (controllerStep_row hc) hv
  · exact hi
  · exact registerInv_reset _
  · exact hi
  · exact hi

end Sys2Proof.Machine
end

section
/-! SUPPORT. The lines (10_state R37) and the computed ports (10_state R34, R38). A step selects, exchanges, deselects, leaves the lines
alone, or releases them with no event on the link. -/

namespace Sys2Proof.Machine

variable {s t : State}

/-! ### What a step does to the lines -/

/-- The event of a selection, an exchange or a deselection. -/
def Event.isLink : Event → Bool
  | .sel | .xfer _ _ | .desel => true
  | .hold _ | .init | .req _ _ _ | .resp _ => false

/-- What a step can do to the two lines, with the link event it adds to the trace and the phases it leads between. -/
inductive LineEffect (s t : State) : Prop
  | select : t.trace = s.trace ++ [.sel] → t.csSel = true → t.linkEn = true → t.phase.selected = true → LineEffect s t
  | exchange (o v : Byte) : t.trace = s.trace ++ [.xfer o v] → t.csSel = s.csSel → t.linkEn = s.linkEn →
      s.phase.selected = true → t.phase.selected = true → LineEffect s t
  | deselect : t.trace = s.trace ++ [.desel] → t.csSel = false → t.linkEn = false → t.phase.selected = false → LineEffect s t
  | none : (∀ e, e.isLink = true → t.trace ≠ s.trace ++ [e]) → t.csSel = s.csSel → t.linkEn = s.linkEn →
      t.phase.selected = s.phase.selected → LineEffect s t
  | release : (∀ e, e.isLink = true → t.trace ≠ s.trace ++ [e]) → t.csSel = false → t.linkEn = false →
      t.phase.selected = false → LineEffect s t

theorem noLinkEvent_of_trace_eq (h : t.trace = s.trace) (e : Event) (_ : e.isLink = true) : t.trace ≠ s.trace ++ [e] := by
  simp [h]

theorem noLinkEvent_of_trace_snoc {e₀ : Event} (h : t.trace = s.trace ++ [e₀]) (h₀ : e₀.isLink = false) (e : Event)
    (he : e.isLink = true) : t.trace ≠ s.trace ++ [e] := by
  intro hx
  have heq : e₀ = e := by simpa [h] using hx
  simp [← heq, h₀] at he

/-- The rows, each by its kind. -/
theorem row_lineEffect (h : Row s t) : LineEffect s t := by
  cases h with
  | pollSel | rdSel | wrenSel | wrSel | wrdiSel => exact .select rfl rfl rfl rfl
  | pollOp hp | rdOp hp | rdAh hp | rdAl hp | wrenOp hp | wrOp hp | wrAh hp | wrdiOp hp =>
    exact .exchange _ _ rfl (by simp) (by simp) (by rw [hp]; rfl) rfl
  | pollDummy hp | rdDataMore hp | rdDataLast hp | wrAl hp | wrDataMore _ hp | wrDataLast _ hp =>
    exact .exchange _ _ rfl (by simp) (by simp) (by rw [hp]; rfl) rfl
  | pollDesel | rdDesel | wrenDesel | wrDesel | wrdiDesel => exact .deselect rfl rfl rfl rfl
  | waitUninit | waitIdle | rdDataStuck | rdHoldStuck | wrDataStuck =>
    exact .none (noLinkEvent_of_trace_eq rfl) rfl rfl rfl
  | refuseUninit | refuseIdle => exact .none (noLinkEvent_of_trace_eq rfl) rfl rfl rfl
  | initUninit => exact .release (noLinkEvent_of_trace_snoc rfl rfl) rfl rfl rfl
  | initIdle => exact .none (noLinkEvent_of_trace_snoc rfl rfl) rfl rfl rfl
  | acceptRead _ _ hp | acceptWrite _ _ hp | resp hp =>
    exact .none (noLinkEvent_of_trace_snoc rfl rfl) rfl rfl (by rw [hp]; rfl)
  | checkOut hp | checkRead hp | checkWrite hp | splitDone hp | splitMore hp =>
    exact .none (noLinkEvent_of_trace_eq rfl) rfl rfl (by rw [hp]; rfl)
  | pollAgain hp | pollWrite hp | pollReadNone hp | pollRead hp =>
    exact .none (noLinkEvent_of_trace_eq rfl) rfl rfl (by rw [hp]; rfl)
  | pollHold hp | rdHoldMore hp | rdHoldDone hp | wrenHold hp | wrHold hp | wrdiHold hp =>
    exact .none (noLinkEvent_of_trace_snoc rfl rfl) (by simp) (by simp) (by rw [hp]; rfl)

theorem reset_lineEffect (s : State) : LineEffect s (reset s) := by
  unfold reset
  split <;> exact .release (by simp) rfl rfl rfl

/-! ### The line invariant -/

/-- A step with one of the five effects keeps the lines equal to each other and to what the phase says. -/
theorem linesInv_of_lineEffect (h : LineEffect s t) (hi : LinesInv s) :
    LinesInv t ∧ (∀ o v, t.trace = s.trace ++ [.xfer o v] → s.csSel = true ∧ s.linkEn = true) ∧
      (t.trace = s.trace ++ [.sel] → t.csSel = true ∧ t.linkEn = true) ∧
      (t.trace = s.trace ++ [.desel] → t.csSel = false ∧ t.linkEn = false) := by
  obtain ⟨hlink, hsel⟩ := hi
  cases h with
  | select he hc hl hp =>
    exact ⟨⟨hl.trans hc.symm, hc.trans hp.symm⟩, by simp [he], fun _ => ⟨hc, hl⟩, by simp [he]⟩
  | exchange o v he hc hl hs hp =>
    have hcs : s.csSel = true := hsel.trans hs
    exact ⟨⟨by rw [hl, hc, hlink], by rw [hc, hcs, hp]⟩, fun _ _ _ => ⟨hcs, hlink.trans hcs⟩, by simp [he], by simp [he]⟩
  | deselect he hc hl hp =>
    exact ⟨⟨hl.trans hc.symm, hc.trans hp.symm⟩, by simp [he], by simp [he], fun _ => ⟨hc, hl⟩⟩
  | none he hc hl hp =>
    exact ⟨⟨by rw [hl, hc, hlink], by rw [hc, hp, hsel]⟩, fun _ _ hx => absurd hx (he _ rfl),
      fun hx => absurd hx (he _ rfl), fun hx => absurd hx (he _ rfl)⟩
  | release he hc hl hp =>
    exact ⟨⟨hl.trans hc.symm, hc.trans hp.symm⟩, fun _ _ hx => absurd hx (he _ rfl),
      fun hx => absurd hx (he _ rfl), fun hx => absurd hx (he _ rfl)⟩

/-- Settles O43: every move of every agent has one of the effects that keep the lines. -/
theorem linesKept : Obligations.LinesKept := by
  intro s t hi h
  rcases step_cases h with ⟨v, hturn, hc⟩ | ⟨rest, -, rfl⟩ | ⟨rest, -, rfl⟩ | ⟨rest, q, -, rfl⟩ | ⟨rest, k, b, -, rfl⟩
  · have heff := row_lineEffect (controllerStep_row hc)
    rw [turn_eq hturn] at heff
    have hkept := linesInv_of_lineEffect heff hi
    exact hkept
  · exact linesInv_of_lineEffect (.none (noLinkEvent_of_trace_eq rfl) rfl rfl rfl) hi
  · have hkept := linesInv_of_lineEffect (reset_lineEffect { s with schedule := rest }) hi
    exact hkept
  · exact linesInv_of_lineEffect (.none (noLinkEvent_of_trace_eq rfl) rfl rfl rfl) hi
  · exact linesInv_of_lineEffect (.none (noLinkEvent_of_trace_eq rfl) rfl rfl rfl) hi

/-! ### Computed ports -/

theorem ok_ne_outOfRange (k : StatusCodes) : k.ok ≠ k.outOfRange := by
  unfold StatusCodes.ok StatusCodes.outOfRange
  split <;> omega

/-- Any two different numbers are the codes of some configuration (log 12). -/
theorem exists_statusCodes {x y : Nat} (h : x ≠ y) : ∃ k : StatusCodes, k.ok = x ∧ k.outOfRange = y := by
  rcases Nat.lt_or_gt_of_ne h with hlt | hlt
  · exact ⟨⟨x, y - x - 1, true⟩, by simp [StatusCodes.ok], by simp [StatusCodes.outOfRange]; omega⟩
  · exact ⟨⟨y, x - y - 1, false⟩, by simp [StatusCodes.ok]; omega, by simp [StatusCodes.outOfRange]⟩

theorem inverse_ne (l : Level) : l.inverse ≠ l := by cases l <;> decide

theorem chipSelectLevel_active_iff : s.chipSelectLevel = s.config.csActiveLevel ↔ s.csSel = true := by
  cases hc : s.csSel <;> simp [State.chipSelectLevel, hc, inverse_ne]

/-- Settles O39. -/
theorem derivedPorts : Obligations.DerivedPorts :=
  ⟨fun c => ok_ne_outOfRange c.statusCodes, fun _ _ => exists_statusCodes, fun _ => chipSelectLevel_active_iff,
    fun _ => ⟨decide_eq_true_iff, decide_eq_true_iff⟩⟩

end Sys2Proof.Machine
end

section
/-! SUPPORT. The reference device row by row: what it answers in an exchange (20_memory R69) and what a complete frame does to it
(20_memory R70). -/

namespace Sys2Proof.Machine

variable {s : State} {c : Config} {d : Device}

/-! ### What it answers -/

theorem reply_reference (hk : d.kind = .reference) (o : Byte) : d.reply c o = d.replyTo c (d.frame ++ [o]) := by
  simp [Device.reply, hk]

theorem reply_rdsr (hk : d.kind = .reference) (hf : d.frame = [opcodeRdsr]) (o : Byte) : d.reply c o = .status d.wip := by
  simp [reply_reference hk, hf, Device.replyTo]

/-- The byte a READ of an idle device is at (20_memory R69): the address, and one further for each data position behind it. -/
theorem replyTo_read {h l o : Byte} {more : List Byte} (hw : d.wip = false)
    (ha : (joinAddr h l).toNat + more.length < c.maxAddress) :
    d.replyTo c (opcodeRead :: h :: l :: (more ++ [o])) = .stored (d.mem.read ((joinAddr h l).toNat + more.length)) := by
  cases more with
  | nil => simpa [Device.replyTo, hw] using ha
  | cons x rest => simpa [Device.replyTo, hw] using ha

theorem reply_read {h l : Byte} {more : List Byte} (hk : d.kind = .reference) (hf : d.frame = opcodeRead :: h :: l :: more)
    (hw : d.wip = false) (ha : (joinAddr h l).toNat + more.length < c.maxAddress) (o : Byte) :
    d.reply c o = .stored (d.mem.read ((joinAddr h l).toNat + more.length)) := by
  rw [reply_reference hk, hf]
  exact replyTo_read hw ha

/-- Outside the status byte and the data positions of a READ of an idle device the byte is any value. -/
theorem reply_any (hk : d.kind = .reference) (hs : d.frame ≠ [opcodeRdsr])
    (hr : ∀ h l more, d.frame = opcodeRead :: h :: l :: more →
      d.wip = true ∨ c.maxAddress ≤ (joinAddr h l).toNat + more.length) (o : Byte) : d.reply c o = .any := by
  rw [reply_reference hk]
  match hf : d.frame with
  | [] => rfl
  | [x] => simp [Device.replyTo, show x ≠ opcodeRdsr from fun hx => hs (by rw [hf, hx])]
  | [_, _] => rfl
  | x :: h :: l :: more =>
    have hno : ¬(x = opcodeRead ∧ d.wip = false ∧ (joinAddr h l).toNat + more.length < c.maxAddress) := by
      rintro ⟨rfl, hw, hlt⟩
      rcases hr h l more hf with hw' | hle
      · simp [hw] at hw'
      · omega
    cases more with
    | nil => simpa [Device.replyTo] using hno
    | cons y rest => simpa [Device.replyTo] using hno

theorem received_of_any {o : Byte} (h : s.device.reply s.config o = .any) : received s o = s.anyByte := by simp [received, h]

theorem received_of_status {o : Byte} {w : Bool} (h : s.device.reply s.config o = .status w) :
    received s o = statusByte w s.anyByte := by simp [received, h]

theorem received_of_stored {o b : Byte} (h : s.device.reply s.config o = .stored b) : received s o = b := by
  simp [received, h]

/-- Bit 0 of the status byte is WIP, whatever the other bits are. -/
theorem statusBusy_received (hk : s.device.kind = .reference) (hf : s.device.frame = [opcodeRdsr]) (o : Byte) :
    statusBusy (received s o) = s.device.wip := by
  simp [received_of_status (reply_rdsr hk hf o)]

/-- Settles O29: the cases of the reply, the address being formed from its two bytes. -/
theorem deviceReturns : Obligations.DeviceReturns := by
  intro s o hk
  refine ⟨fun hf => ⟨received_of_status (reply_rdsr hk hf o), statusBusy_received hk hf o⟩, fun h l more hf hw ha => ?_,
    fun hs hr => received_of_any (reply_any hk hs (fun h l more hf => ?_) o)⟩
  · rw [← joinAddr_toNat] at ha ⊢
    exact received_of_stored (reply_read hk hf hw ha o)
  · rw [joinAddr_toNat]
    exact hr h l more hf

/-! ### What a complete frame does -/

theorem deselect_of_takeFrame {e : Device} (hk : d.kind = .reference) (h : d.takeFrame c d.frame = .ok e) :
    d.deselect c = .ok { e with frame := [] } := by
  simp [Device.deselect, hk, h]

theorem deselect_of_fault {f : Fault} (hk : d.kind = .reference) (h : d.takeFrame c d.frame = .error f) :
    d.deselect c = .error f := by
  simp [Device.deselect, hk, h]

theorem deselect_rdsr_or_read {o : Byte} {rest : List Byte} (hk : d.kind = .reference) (hf : d.frame = o :: rest)
    (ho : o = opcodeRdsr ∨ o = opcodeRead) : d.deselect c = .ok { d with frame := [] } :=
  deselect_of_takeFrame hk (by simp [hf, Device.takeFrame, ho])

/-- A busy device rejects whatever comes (20_memory R70, first row). -/
theorem deselect_busy {o : Byte} {rest : List Byte} (hk : d.kind = .reference) (hf : d.frame = o :: rest)
    (hw : d.wip = true) : d.deselect c = .ok { d with frame := [] } :=
  deselect_of_takeFrame hk (by simp [hf, Device.takeFrame, hw])

theorem deselect_wren (hk : d.kind = .reference) (hf : d.frame = [opcodeWren]) (hw : d.wip = false) :
    d.deselect c = .ok { d with frame := [], wel := true } :=
  deselect_of_takeFrame hk (e := { d with wel := true }) (by simp [hf, Device.takeFrame, hw, opcodeWren, opcodeRdsr, opcodeRead])

theorem deselect_wrdi (hk : d.kind = .reference) (hf : d.frame = [opcodeWrdi]) (hw : d.wip = false) :
    d.deselect c = .ok { d with frame := [], wel := false } :=
  deselect_of_takeFrame hk (e := { d with wel := false })
    (by simp [hf, Device.takeFrame, hw, opcodeWrdi, opcodeWren, opcodeRdsr, opcodeRead])

theorem takeFrame_write {rest : List Byte} (hw : d.wip = false) : d.takeFrame c (opcodeWrite :: rest) = d.takeWrite c rest := by
  simp [Device.takeFrame, hw, opcodeWrite, opcodeWrdi, opcodeWren, opcodeRdsr, opcodeRead]

theorem deselect_write_ignored {rest : List Byte} (hk : d.kind = .reference) (hf : d.frame = opcodeWrite :: rest)
    (hw : d.wip = false) (hl : d.wel = false) : d.deselect c = .ok { d with frame := [] } := by
  refine deselect_of_takeFrame hk ?_
  rw [hf, takeFrame_write hw]
  unfold Device.takeWrite
  split <;> simp [hl]

theorem deselect_write {h l : Byte} {data : List Byte} (hk : d.kind = .reference)
    (hf : d.frame = opcodeWrite :: h :: l :: data) (hw : d.wip = false) (hl : d.wel = true)
    (ha : writeAccepted c (joinAddr h l).toNat data.length = true) :
    d.deselect c = .ok { d with frame := [], pend := cellsFrom (joinAddr h l).toNat data, wip := true } :=
  deselect_of_takeFrame hk (e := { d with pend := cellsFrom (joinAddr h l).toNat data, wip := true })
    (by rw [hf, takeFrame_write hw]; simp [Device.takeWrite, hf, hl, ha])

theorem deselect_malformedWrite {h l : Byte} {data : List Byte} (hk : d.kind = .reference)
    (hf : d.frame = opcodeWrite :: h :: l :: data) (hw : d.wip = false) (hl : d.wel = true)
    (ha : writeAccepted c (joinAddr h l).toNat data.length = false) : d.deselect c = .error .malformedWrite :=
  deselect_of_fault hk (by rw [hf, takeFrame_write hw]; simp [Device.takeWrite, hl, ha])

theorem deselect_undefinedFrame {o : Byte} {rest : List Byte} (hk : d.kind = .reference) (hf : d.frame = o :: rest)
    (hw : d.wip = false) (h2 : o ≠ opcodeWrite) (h3 : o ≠ opcodeRead) (h4 : o ≠ opcodeWrdi) (h5 : o ≠ opcodeRdsr)
    (h6 : o ≠ opcodeWren) : d.deselect c = .error .undefinedFrame :=
  deselect_of_fault hk (by simp [Device.takeFrame, *])

theorem writeAccepted_iff {a n : Nat} : writeAccepted c a n = true ↔
    1 ≤ n ∧ n ≤ c.pageSize ∧ a + n ≤ c.maxAddress ∧ a / c.pageSize = (a + n - 1) / c.pageSize := by
  simp [writeAccepted, Config.rangeFits, Config.onePage, and_assoc]

/-- Settles O30: the table's rows, one lemma each. -/
theorem deviceTakesFrame : Obligations.DeviceTakesFrame := by
  intro c d hk
  refine ⟨fun rest hf => ?_, fun o rest hf => deselect_busy hk hf, deselect_wren hk, deselect_wrdi hk,
    fun rest hf => deselect_write_ignored hk hf, fun hw o rest hf => deselect_undefinedFrame hk hf hw,
    fun h l data a hf hw hl ha => ?_⟩
  · rcases hf with hf | hf
    · exact deselect_rdsr_or_read hk hf (.inl rfl)
    · exact deselect_rdsr_or_read hk hf (.inr rfl)
  · rw [← joinAddr_toNat] at ha
    subst ha
    rw [← cellsFrom_eq_zip]
    refine ⟨fun h1 h2 h3 h4 => deselect_write hk hf hw hl (writeAccepted_iff.2 ⟨h1, h2, h3, h4⟩), fun hbad => ?_⟩
    refine deselect_malformedWrite hk hf hw hl ?_
    rw [← Bool.not_eq_true, writeAccepted_iff]
    rintro ⟨h1, -, h3, h4⟩
    rcases hbad with rfl | hbad | hbad
    · simp at h1
    · omega
    · exact hbad h4

end Sys2Proof.Machine
end

section
/-! SUPPORT. What each row does on the link, said once: it selects, exchanges one byte, deselects, holds, or leaves the link alone; and
the bytes that the sequencer has sent in the transaction of its phase. -/

namespace Sys2Proof.Machine

variable {s t : State}

/-- The phases after `Desel`, the hold still to come. -/
def Phase.holding : Phase → Bool
  | .pollHold | .rdHold | .wrenHold | .wrHold | .wrdiHold => true
  | _ => false

/-- The phases between a `Sel` and the end of its hold. -/
def Phase.inTransaction (p : Phase) : Bool := p.selected || p.holding

/-- The bytes sent so far in the transaction of the phase (44_host_operations R198), as the registers and the source buffer give them. -/
def sentBytes (s : State) : List Byte :=
  match s.phase with
  | .pollDummy => [opcodeRdsr]
  | .pollDesel | .pollHold => [opcodeRdsr, s.config.dummyByte]
  | .rdAh => [opcodeRead]
  | .rdAl => [opcodeRead, hi8 (addressField (s.A + s.i))]
  | .rdData => readFrame s.config (addressField (readAddress s)) (positionsDone s)
  | .rdDesel | .rdHold => readFrameDone s
  | .wrenDesel | .wrenHold => [opcodeWren]
  | .wrAh => [opcodeWrite]
  | .wrAl => [opcodeWrite, hi8 (addressField s.cur)]
  | .wrData | .wrDesel | .wrHold => writeFrame (addressField s.cur) ((s.src.drop (s.cur - s.A)).take s.i)
  | .wrdiDesel | .wrdiHold => [opcodeWrdi]
  | _ => []

/-- What a row can do on the link, with the phases it leads between. -/
inductive LinkEffect (s t : State) : Prop
  | stay : t = s → LinkEffect s t
  | silent : s.phase.inTransaction = false → t.phase.inTransaction = false → t.trace = s.trace → t.device = s.device →
      LinkEffect s t
  | host (e : Event) : e.isBus = false → s.phase.inTransaction = false → t.phase.inTransaction = false →
      t.trace = s.trace ++ [e] → t.device = s.device → LinkEffect s t
  | select : s.phase.inTransaction = false → t.phase.selected = true → sentBytes t = [] → t.trace = s.trace ++ [.sel] →
      t.device = s.device.select → LinkEffect s t
  | exchange (o : Byte) : s.phase.selected = true → t.phase.selected = true → (PhaseInv s → sentBytes t = sentBytes s ++ [o]) →
      t.trace = s.trace ++ [.xfer o (received s o)] → t.device = s.device.receive o → LinkEffect s t
  | deselect (d : Device) : s.phase.selected = true → t.phase.holding = true → sentBytes t = sentBytes s →
      s.device.deselect s.config = .ok d → t.trace = s.trace ++ [.desel] → t.device = d → LinkEffect s t
  | hold (d : Nat) : s.phase.holding = true → t.phase.inTransaction = false → s.config.tCsdMin ≤ d →
      t.trace = s.trace ++ [.hold d] → t.device = s.device → LinkEffect s t

/-! ### The bytes of a data row -/

/-- The data byte that S_WR_DATA sends is the next one of the chunk's slice. -/
theorem writeFrame_take_succ {b : Byte} (hb : memReadSrc s (s.cur - s.A + s.i) = some b) :
    writeFrame (addressField s.cur) ((s.src.drop (s.cur - s.A)).take (s.i + 1)) =
      writeFrame (addressField s.cur) ((s.src.drop (s.cur - s.A)).take s.i) ++ [b] := by
  have hd : (s.src.drop (s.cur - s.A))[s.i]? = some b := by rw [List.getElem?_drop]; exact hb
  rw [writeFrame_snoc, List.take_add_one, hd]
  rfl

/-- The positions behind it count the bytes from the frame's address to the present one. -/
theorem readAddress_add_positionsDone (s : State) : readAddress s + positionsDone s = s.A + s.i := by
  unfold readAddress positionsDone
  split <;> rfl

theorem readFrame_first (hburst : s.config.readFraming = .burst → s.i = 0) :
    readFrame s.config (addressField (readAddress s)) (positionsDone s) =
      [opcodeRead, hi8 (addressField (s.A + s.i)), lo8 (addressField (s.A + s.i))] := by
  cases hf : s.config.readFraming <;> simp [readAddress, positionsDone, readFrame, hf]
  simp [hburst hf]

theorem readFrameDone_of_last (hm : pendingPositions s = 1) (ht : t.config = s.config) (hA : t.A = s.A) (hN : t.N = s.N)
    (hi : t.i = s.i + 1) :
    readFrameDone t = readFrame s.config (addressField (readAddress s)) (positionsDone s) ++ [s.config.dummyByte] := by
  rw [readFrame_snoc]
  cases hf : s.config.readFraming with
  | burst => simp [readFrameDone, readAddress, positionsDone, ht, hf, hA, hN, ← pendingPositions_last hf hm]
  | perByte => simp [readFrameDone, readAddress, positionsDone, ht, hf, hA, hi]

/-! ### The rows -/

theorem le_holdTime (s : State) : s.config.tCsdMin ≤ holdTime s := Nat.le_add_right _ _

theorem row_linkEffect (h : Row s t) : LinkEffect s t := by
  cases h with
  | waitUninit | waitIdle | rdDataStuck | rdHoldStuck | wrDataStuck => exact .stay rfl
  | refuseUninit hp | refuseIdle hp => exact .silent (by rw [hp]; rfl) (by simp [hp]; rfl) rfl rfl
  | initUninit hp => exact .host _ rfl (by rw [hp]; rfl) rfl rfl rfl
  | initIdle hp => exact .host _ rfl (by rw [hp]; rfl) (by simp [hp]; rfl) rfl rfl
  | acceptRead _ _ hp | acceptWrite _ _ hp | resp hp => exact .host _ rfl (by rw [hp]; rfl) rfl rfl rfl
  | checkOut hp | checkRead hp | checkWrite hp | splitDone hp | splitMore hp =>
    exact .silent (by rw [hp]; rfl) rfl rfl rfl
  | pollAgain hp | pollWrite hp | pollReadNone hp | pollRead hp => exact .silent (by rw [hp]; rfl) rfl rfl rfl
  | pollSel hp | rdSel hp | wrenSel hp | wrSel hp | wrdiSel hp => exact .select (by rw [hp]; rfl) rfl rfl rfl rfl
  | pollOp hp | rdOp hp | wrenOp hp | wrOp hp | wrdiOp hp =>
    exact .exchange _ (by rw [hp]; rfl) rfl (fun _ => by simp [sentBytes, hp]) rfl rfl
  | pollDummy hp | rdAh hp | wrAh hp =>
    exact .exchange _ (by rw [hp]; rfl) rfl (fun _ => by simp [sentBytes, hp]) rfl rfl
  | rdAl hp =>
    refine .exchange _ (by rw [hp]; rfl) rfl (fun hi => ?_) rfl rfl
    simp only [PhaseInv, hp] at hi
    obtain ⟨-, -, -, hburst⟩ := hi
    have hf := readFrame_first hburst
    simp only [readAddress, positionsDone] at hf
    simp [sentBytes, hp, readAddress, positionsDone, hf]
  | rdDataMore hp hm =>
    refine .exchange _ (by rw [hp]; rfl) rfl (fun _ => ?_) rfl rfl
    have hf : s.config.readFraming = .burst := by
      unfold pendingPositions at hm
      split at hm
      · assumption
      · omega
    simp [sentBytes, hp, readAddress, positionsDone, hf, readFrame_snoc]
  | rdDataLast hp hm =>
    refine .exchange _ (by rw [hp]; rfl) rfl (fun _ => ?_) rfl rfl
    simp only [sentBytes, hp]
    exact readFrameDone_of_last hm (by simp) (by simp) (by simp) rfl
  | wrAl hp =>
    exact .exchange _ (by rw [hp]; rfl) rfl (fun _ => by simp [sentBytes, hp, writeFrame]) rfl rfl
  | wrDataMore b hp _ hb | wrDataLast b hp _ hb =>
    exact .exchange b (by rw [hp]; rfl) rfl (fun _ => by simpa [sentBytes, hp] using writeFrame_take_succ hb) rfl rfl
  | pollDesel d hp hd | wrenDesel d hp hd | wrDesel d hp hd | wrdiDesel d hp hd =>
    exact .deselect d (by rw [hp]; rfl) rfl (by simp only [sentBytes, hp]) hd rfl rfl
  | rdDesel d hp hd => exact .deselect d (by rw [hp]; rfl) rfl (by simp only [sentBytes, hp]; rfl) hd rfl rfl
  | pollHold hp | rdHoldMore hp | rdHoldDone hp | wrenHold hp | wrHold hp | wrdiHold hp =>
    exact .hold (holdTime s) (by rw [hp]; rfl) rfl (le_holdTime s) (by simp) (by simp)

/-! ### What follows for the array -/

/-- No row changes a byte of the array: the link gives the device frames, and only `Complete` stores. -/
theorem row_keeps_mem (h : Row s t) : t.device.mem = s.device.mem := by
  cases row_linkEffect h with
  | stay h => rw [h]
  | silent _ _ _ hd | host _ _ _ _ _ hd | hold _ _ _ _ _ hd => rw [hd]
  | select _ _ _ _ hd | exchange _ _ _ _ _ hd => simp [hd]
  | deselect d _ _ _ hd _ ht => rw [ht, deselect_mem hd]

end Sys2Proof.Machine
end

section
/-! SUPPORT. The device's array through `Complete` and through every step (20_memory R51, R70, R71). -/

namespace Sys2Proof.Machine

variable {s t : State} {c : Config} {d : Device} {m : Memory}

/-! ### Storing cells -/

/-- A write leaves every other address alone, whether or not the cells are in canonical form. -/
theorem read_write_of_ne {a x : Nat} (hx : x ≠ a) (b : Byte) : (m.write a b).read x = m.read x := by
  unfold Memory.write
  split
  · induction m with
    | nil => rfl
    | cons y rest ih =>
      obtain ⟨k, b'⟩ := y
      unfold Memory.erase
      split
      · rename_i hk
        simp [Memory.read, hk, Ne.symm hx]
      · simp only [Memory.read, ih]
  · simp [read_insert, hx]

theorem read_writeAll_of_ne (cells : List Host.Cell) {x : Nat} (hx : ∀ y ∈ cells, y.1 ≠ x) :
    (m.writeAll cells).read x = m.read x := by
  induction cells generalizing m with
  | nil => rfl
  | cons y rest ih =>
    rw [Memory.writeAll, ih fun z hz => hx z (List.mem_cons_of_mem _ hz),
      read_write_of_ne (Ne.symm (hx y List.mem_cons_self))]

theorem writeAll_append (xs ys : List Host.Cell) : m.writeAll (xs ++ ys) = (m.writeAll xs).writeAll ys := by
  induction xs generalizing m with
  | nil => rfl
  | cons x rest ih => exact ih

/-- Of two cells for one address the last counts. -/
theorem read_writeAll_last (h : m.wf = true) {before after : List Host.Cell} {a : Nat} {b : Byte}
    (ha : ∀ x ∈ after, x.1 ≠ a) : (m.writeAll (before ++ (a, b) :: after)).read a = b := by
  rw [writeAll_append, Memory.writeAll, read_writeAll_of_ne after ha, read_write (writeAll_wf h before), if_pos rfl]

/-! ### Complete -/

theorem complete_wf (h : d.mem.wf = true) : d.complete.mem.wf = true := by
  unfold Device.complete
  split
  · exact writeAll_wf h d.pend
  · exact h
  · exact h

/-- `Complete` changes a byte only of a running write cycle, and only where a pending byte goes. -/
theorem complete_read_ne {a : Nat} (h : d.complete.mem.read a ≠ d.mem.read a) : d.wip = true ∧ ∃ x ∈ d.pend, x.1 = a := by
  unfold Device.complete at h
  split at h
  · rename_i hw
    refine ⟨hw, ?_⟩
    by_contra hno
    simp only [not_exists, not_and] at hno
    exact h (read_writeAll_of_ne d.pend hno)
  · exact absurd rfl h
  · exact absurd rfl h

theorem complete_wip_imp (h : d.complete.wip = true) : d.wip = true := by
  unfold Device.complete at h
  split at h <;> simp_all

/-! ### What a step does to the array and to WIP -/

theorem reset_mem (s : State) : (reset s).device.mem = s.device.mem := by unfold reset; split <;> rfl
theorem reset_wip (s : State) : (reset s).device.wip = s.device.wip := by unfold reset; split <;> rfl
theorem reset_pend (s : State) : (reset s).device.pend = s.device.pend := by unfold reset; split <;> rfl

/-- Only a WRITE that the device takes starts a write cycle. -/
theorem deselect_wip {d' : Device} (h : d.deselect c = .ok d') (hw : d.wip = false) (hw' : d'.wip = true) :
    d.frame.head? = some opcodeWrite ∧ d.wel = true := by
  cases hk : d.kind with
  | arbitrary =>
    rw [deselect_arbitrary hk] at h
    cases h
    simp [hw] at hw'
  | reference =>
    obtain ⟨e, he, rfl⟩ := deselect_reference hk h
    rcases takeFrame_cases he with rfl | ⟨-, -, rfl⟩ | ⟨-, -, rfl⟩ | ⟨hi, lo, data, hf, -, hl, -, rfl⟩
    · simp [hw] at hw'
    · simp [hw] at hw'
    · simp [hw] at hw'
    · exact ⟨by rw [hf]; rfl, hl⟩

theorem row_wip (h : Row s t) (hw : s.device.wip = false) (hw' : t.device.wip = true) :
    s.device.frame.head? = some opcodeWrite ∧ s.device.wel = true ∧ t.trace = s.trace ++ [.desel] := by
  cases row_linkEffect h with
  | stay h => simp [h, hw] at hw'
  | silent _ _ _ hd | host _ _ _ _ _ hd | hold _ _ _ _ _ hd => simp [hd, hw] at hw'
  | select _ _ _ _ hd | exchange _ _ _ _ _ hd => simp [hd, hw] at hw'
  | deselect d _ _ _ hd he ht =>
    rw [ht] at hw'
    obtain ⟨hf, hl⟩ := deselect_wip hd hw hw'
    exact ⟨hf, hl, he⟩

/-- Settles O31: the cells are stored one after the other, and of the moves only `Complete` stores and only a `Desel` sets WIP. -/
theorem completeCommits : Obligations.CompleteCommits := by
  refine ⟨fun d hk hw hm => ?_, fun s t h => ?_⟩
  · rw [complete_of_busy d hk hw]
    refine ⟨rfl, rfl, rfl, rfl, writeAll_wf hm d.pend, fun a ha => read_writeAll_of_ne d.pend ha, ?_⟩
    intro before a b after hp ha
    simp only [hp]
    exact read_writeAll_last hm ha
  · rcases step_cases h with ⟨v, hturn, hc⟩ | ⟨rest, hs, rfl⟩ | ⟨rest, -, rfl⟩ | ⟨rest, q, -, rfl⟩ | ⟨rest, k, b, -, rfl⟩
    · have hrow := controllerStep_row hc
      rw [turn_eq hturn] at hrow
      have hwip := row_wip hrow
      exact ⟨fun a ha => absurd (congrArg (·.read a) (row_keeps_mem hrow)) ha, hwip⟩
    · refine ⟨fun a ha => ?_, fun hw hw' => ?_⟩
      · obtain ⟨hw, hx⟩ := complete_read_ne ha
        exact ⟨hw, ⟨rest, hs⟩, hx⟩
      · simp [complete_wip_imp hw'] at hw
    · refine ⟨fun a ha => absurd (congrArg (·.read a) (reset_mem _)) ha, fun hw hw' => ?_⟩
      rw [reset_wip] at hw'
      simp [hw] at hw'
    · exact ⟨fun a ha => absurd rfl ha, fun hw hw' => by simp [hw] at hw'⟩
    · exact ⟨fun a ha => absurd rfl ha, fun hw hw' => by simp [hw] at hw'⟩

/-! ### The array's invariant -/

/-- A frame leaves the pending bytes as they are or is a WRITE whose range the table checks. -/
theorem deselect_pend_inSpace {d' : Device} (h : d.deselect c = .ok d') (hp : cellsInSpace c d.pend) :
    cellsInSpace c d'.pend := by
  cases hk : d.kind with
  | arbitrary =>
    rw [deselect_arbitrary hk] at h
    cases h
    exact hp
  | reference =>
    obtain ⟨e, he, rfl⟩ := deselect_reference hk h
    rcases takeFrame_cases he with rfl | ⟨-, -, rfl⟩ | ⟨-, -, rfl⟩ | ⟨hi, lo, data, -, -, -, ha, rfl⟩
    · exact hp
    · exact hp
    · exact hp
    · intro x hx
      obtain ⟨-, -, hspace, -⟩ := writeAccepted_iff.1 ha
      have := (mem_cellsFrom hx).2
      omega

theorem row_keeps_arrayInv (h : Row s t) (hi : ArrayInv s) : ArrayInv t := by
  obtain ⟨hwf, hmem, hpend⟩ := hi
  rw [ArrayInv, row_keeps_config h, row_keeps_mem h]
  refine ⟨hwf, hmem, ?_⟩
  cases row_linkEffect h with
  | stay h => rwa [h]
  | silent _ _ _ hd | host _ _ _ _ _ hd | hold _ _ _ _ _ hd => rwa [hd]
  | select _ _ _ _ hd | exchange _ _ _ _ _ hd => simpa [hd] using hpend
  | deselect d _ _ _ hd _ ht => rw [ht]; exact deselect_pend_inSpace hd hpend

theorem complete_pend_inSpace (hp : cellsInSpace c d.pend) : cellsInSpace c d.complete.pend := by
  unfold Device.complete
  split
  · simp [cellsInSpace]
  · exact hp
  · exact hp

theorem complete_mem_inSpace (hm : cellsInSpace c d.mem) (hp : cellsInSpace c d.pend) : cellsInSpace c d.complete.mem := by
  unfold Device.complete
  split
  · exact fun x hx => (mem_writeAll hx).elim (hp x) (hm x)
  · exact hm
  · exact hm

theorem reset_config (s : State) : (reset s).config = s.config := by unfold reset; split <;> rfl

/-- Settles O46. -/
theorem arrayKept : Obligations.ArrayKept := by
  intro s t hi h
  rcases step_cases h with ⟨v, hturn, hc⟩ | ⟨rest, -, rfl⟩ | ⟨rest, -, rfl⟩ | ⟨rest, q, -, rfl⟩ | ⟨rest, k, b, -, rfl⟩
  · have hrow := controllerStep_row hc
    rw [turn_eq hturn] at hrow
    have hconfig := row_keeps_config hrow
    exact ⟨row_keeps_arrayInv hrow hi, hconfig⟩
  · obtain ⟨hwf, hmem, hpend⟩ := hi
    exact ⟨⟨complete_wf hwf, complete_mem_inSpace hmem hpend, complete_pend_inSpace hpend⟩, rfl⟩
  · refine ⟨?_, reset_config _⟩
    rw [ArrayInv, reset_config, reset_mem, reset_pend]
    exact hi
  · exact ⟨hi, rfl⟩
  · exact ⟨hi, rfl⟩

end Sys2Proof.Machine
end

section
/-! SUPPORT. The reference device keeps up with the sequencer (20_memory R67, R70, R71): what it has received, what the last poll saw
of it, and its latch, through every step. -/

namespace Sys2Proof.Machine

variable {s t : State} {c : Config}

/-! ### What the last poll saw, and the latch -/

/-- A poll that saw WIP clear stays true while it matters, and the latch is set from the end of WREN to the end of WRITE. -/
def PollSeen (s : State) : Prop :=
  (s.phase.statusHeld = true → statusBusy s.sr = false → s.device.wip = false) ∧
  (s.phase.afterIdlePoll = true → s.device.wip = false) ∧
  (s.phase.latchSet = true → s.device.wel = true)

/-- The device's frame, in the phases whose step rests on it. -/
def FrameFits (s : State) : Prop :=
  match s.phase with
  | .pollDummy => s.device.frame = [opcodeRdsr]
  | .pollDesel => ∃ rest, s.device.frame = opcodeRdsr :: rest
  | .rdDesel => ∃ rest, s.device.frame = opcodeRead :: rest
  | .wrenDesel => s.device.frame = [opcodeWren]
  | _ => True

/-- A row that leaves WIP, the latch and the status byte alone, between phases of which the later one is told no more. -/
theorem pollSeen_of_kept {p q : Phase} (hi : PollSeen s) (hp : s.phase = p) (hq : t.phase = q := by rfl)
    (hw : t.device.wip = s.device.wip := by simp) (hl : t.device.wel = s.device.wel := by simp)
    (hsr : t.sr = s.sr := by simp)
    (hpq : (q.statusHeld = true → p.statusHeld = true) ∧ (q.afterIdlePoll = true → p.afterIdlePoll = true) ∧
      (q.latchSet = true → p.latchSet = true) := by
        simp [Phase.statusHeld, Phase.afterIdlePoll, Phase.latchSet]) : PollSeen t := by
  obtain ⟨h1, h2, h3⟩ := hpq
  rw [PollSeen, hp] at hi
  rw [PollSeen, hq, hw, hl, hsr]
  obtain ⟨i1, i2, i3⟩ := hi
  exact ⟨fun h => i1 (h1 h), fun h => i2 (h2 h), fun h => i3 (h3 h)⟩

theorem row_keeps_pollSeen (h : Row s t) (hk : s.device.kind = .reference) (hf : FrameFits s) (hi : PollSeen s) :
    PollSeen t := by
  cases h with
  | waitUninit | waitIdle | rdDataStuck | rdHoldStuck | wrDataStuck => exact hi
  | refuseUninit hp | refuseIdle hp | initIdle hp => exact pollSeen_of_kept hi hp hp
  | initUninit hp | acceptRead _ _ hp | acceptWrite _ _ hp | resp hp => exact pollSeen_of_kept hi hp
  | checkOut hp | checkRead hp | checkWrite hp | splitDone hp | splitMore hp => exact pollSeen_of_kept hi hp
  | pollSel hp | pollOp hp | pollHold hp | pollAgain hp | pollReadNone hp => exact pollSeen_of_kept hi hp
  | pollDummy hp =>
    simp only [FrameFits, hp] at hf
    have hb := statusBusy_received hk hf s.config.dummyByte
    exact ⟨fun _ hidle => by simpa [hb] using hidle, nofun, nofun⟩
  | pollDesel d hp hd =>
    simp only [FrameFits, hp] at hf
    obtain ⟨rest, hf⟩ := hf
    rw [deselect_rdsr_or_read hk hf (.inl rfl)] at hd
    cases hd
    exact pollSeen_of_kept hi hp
  | pollWrite hp hb | pollRead hp hb =>
    rw [PollSeen, hp] at hi
    obtain ⟨hheld, -, -⟩ := hi
    exact ⟨nofun, fun _ => hheld rfl hb, nofun⟩
  | rdSel hp | rdOp hp | rdAh hp | rdAl hp | rdDataMore hp | rdDataLast hp => exact pollSeen_of_kept hi hp
  | rdDesel d hp hd =>
    simp only [FrameFits, hp] at hf
    obtain ⟨rest, hf⟩ := hf
    rw [deselect_rdsr_or_read hk hf (.inr rfl)] at hd
    cases hd
    exact pollSeen_of_kept hi hp
  | rdHoldMore hp | rdHoldDone hp => exact pollSeen_of_kept hi hp
  | wrenSel hp | wrenOp hp => exact pollSeen_of_kept hi hp
  | wrenDesel d hp hd =>
    simp only [FrameFits, hp] at hf
    rw [PollSeen, hp] at hi
    obtain ⟨-, hidle, -⟩ := hi
    have hw := hidle rfl
    rw [deselect_wren hk hf hw] at hd
    cases hd
    exact ⟨nofun, fun _ => hw, fun _ => rfl⟩
  | wrenHold hp | wrSel hp | wrOp hp | wrAh hp | wrAl hp => exact pollSeen_of_kept hi hp
  | wrDataMore _ hp | wrDataLast _ hp => exact pollSeen_of_kept hi hp
  | wrDesel | wrdiDesel => exact ⟨nofun, nofun, nofun⟩
  | wrHold hp | wrdiSel hp | wrdiOp hp | wrdiHold hp => exact pollSeen_of_kept hi hp

/-- While the latch matters no write cycle runs, so `Complete` does not clear it. -/
theorem complete_keeps_pollSeen (hi : PollSeen s) : PollSeen { s with device := s.device.complete } := by
  obtain ⟨hheld, hidle, hlatch⟩ := hi
  have hw : s.device.wip = false → s.device.complete.wip = false := fun hw => by rwa [complete_of_idle _ hw]
  refine ⟨fun hp hb => hw (hheld hp hb), fun hp => hw (hidle hp), fun hp => ?_⟩
  have hp' : s.phase.afterIdlePoll = true := by
    revert hp
    cases s.phase <;> decide
  rw [complete_of_idle _ (hidle hp')]
  exact hlatch hp

/-! ### The frame, by the monitor -/

theorem busEvent_xfer_sent {b b' : BusState} {o v : Byte} (h : busEvent c b (.xfer o v) = some b') :
    b'.sent = b.sent ++ [o] := by
  cases b <;> simp only [busEvent, reduceCtorEq, Option.some.injEq] at h
  subst h
  rfl

theorem busEvent_desel {b b' : BusState} (h : busEvent c b .desel = some b') : ∃ u, b' = .released u := by
  cases b with
  | between | operation _ | released _ => simp [busEvent] at h
  | selected before sent last =>
    cases sent with
    | nil => simp [busEvent] at h
    | cons o rest =>
      simp only [busEvent, Option.ite_none_right_eq_some, Option.some.injEq] at h
      exact ⟨_, h.2.symm⟩

/-- Only an exchange leaves bytes in an open transaction. -/
theorem busEvent_sent_nil {b b' : BusState} {e : Event} (h : busEvent c b e = some b') (he : ∀ o v, e ≠ .xfer o v) :
    b'.sent = [] := by
  cases e with
  | xfer o v => exact absurd rfl (he o v)
  | desel =>
    obtain ⟨u, rfl⟩ := busEvent_desel h
    rfl
  | init | req _ _ _ | sel =>
    cases b <;> simp only [busEvent, reduceCtorEq, Option.some.injEq] at h
    subst h
    rfl
  | hold d | resp r =>
    cases b <;> simp only [busEvent, reduceCtorEq, Option.ite_none_right_eq_some, Option.some.injEq] at h
    obtain ⟨-, rfl⟩ := h
    rfl

/-- An event that is neither an exchange nor the end of a transaction finds no transaction open. -/
theorem busEvent_sent_nil_before {b b' : BusState} {e : Event} (h : busEvent c b e = some b')
    (he : ∀ o v, e ≠ .xfer o v) (hd : e ≠ .desel) : b.sent = [] := by
  cases b with
  | between | operation _ | released _ => rfl
  | selected before sent last =>
    cases e with
    | xfer o v => exact absurd rfl (he o v)
    | desel => exact absurd rfl hd
    | init | req _ _ _ | sel | hold _ | resp _ => simp [busEvent] at h

/-! ### The frame follows the monitor -/

theorem readFrameDone_cons (s : State) : ∃ rest, readFrameDone s = opcodeRead :: rest := by
  unfold readFrameDone
  split <;> exact ⟨_, rfl⟩

theorem frameFits_of_busAt {b : BusState} (h : BusAt s b) (hf : s.device.frame = b.sent) : FrameFits s := by
  unfold FrameFits
  split
  case h_1 hp =>
    simp only [BusAt, hp] at h
    obtain ⟨_, _, rfl, -⟩ := h
    exact hf
  case h_2 hp =>
    simp only [BusAt, hp] at h
    obtain ⟨_, rfl, -⟩ := h
    exact ⟨_, hf⟩
  case h_3 hp =>
    simp only [BusAt, hp] at h
    obtain ⟨_, _, rfl, -⟩ := h
    obtain ⟨rest, hr⟩ := readFrameDone_cons s
    exact ⟨rest, hf.trans hr⟩
  case h_4 hp =>
    simp only [BusAt, hp] at h
    obtain ⟨_, _, rfl, -⟩ := h
    exact hf
  case h_5 => trivial

/-- The device has received what the monitor has seen sent. -/
def FrameFollows (s : State) : Prop := ∀ b, busScan s.config s.trace = some b → s.device.frame = b.sent

theorem row_keeps_frameFollows (h : Row s t) (hk : s.device.kind = .reference) (hbus : BusInv s) (hi : FrameFollows s) :
    FrameFollows t := by
  obtain ⟨b, hb, -⟩ := hbus
  have hf := hi b hb
  intro b' hb'
  rw [row_keeps_config h] at hb'
  cases row_linkEffect h with
  | stay h => rw [h] at hb' ⊢; exact hi b' hb'
  | silent _ _ he hd => rw [he] at hb'; rw [hd]; exact hi b' hb'
  | host e hhost _ _ he hd =>
    rw [he, busScan_snoc hb] at hb'
    have hx : ∀ o v, e ≠ .xfer o v := by rintro o v rfl; simp [Event.isBus] at hhost
    have hdesel : e ≠ .desel := by rintro rfl; simp [Event.isBus] at hhost
    rw [hd, hf, busEvent_sent_nil_before hb' hx hdesel, busEvent_sent_nil hb' hx]
  | select _ _ _ he hd =>
    rw [he, busScan_snoc hb] at hb'
    rw [hd, select_frame _ hk, busEvent_sent_nil hb' nofun]
  | exchange o _ _ _ he hd =>
    rw [he, busScan_snoc hb] at hb'
    rw [hd, receive_frame _ hk, hf, busEvent_xfer_sent hb']
  | deselect d _ _ _ hd he ht =>
    rw [he, busScan_snoc hb] at hb'
    obtain ⟨e, -, rfl⟩ := deselect_reference hk hd
    rw [ht, busEvent_sent_nil hb' nofun]
  | hold d _ _ _ he hd =>
    rw [he, busScan_snoc hb] at hb'
    rw [hd, hf, busEvent_sent_nil_before hb' nofun nofun, busEvent_sent_nil hb' nofun]

/-! ### Pending bytes -/

theorem deselect_pend {d d' : Device} (h : d.deselect c = .ok d') (hi : d.wip = false → d.pend = [])
    (hw : d'.wip = false) : d'.pend = [] := by
  cases hk : d.kind with
  | arbitrary =>
    rw [deselect_arbitrary hk] at h
    cases h
    exact hi hw
  | reference =>
    obtain ⟨e, he, rfl⟩ := deselect_reference hk h
    rcases takeFrame_cases he with rfl | ⟨-, hidle, rfl⟩ | ⟨-, hidle, rfl⟩ | ⟨_, _, _, -, -, -, -, rfl⟩
    · exact hi hw
    · exact hi hidle
    · exact hi hidle
    · cases hw

theorem row_pend (h : Row s t) (hi : s.device.wip = false → s.device.pend = []) (hw : t.device.wip = false) :
    t.device.pend = [] := by
  cases row_linkEffect h with
  | stay h => rw [h] at hw ⊢; exact hi hw
  | silent _ _ _ hd | host _ _ _ _ _ hd | hold _ _ _ _ _ hd => rw [hd] at hw ⊢; exact hi hw
  | select _ _ _ _ hd | exchange _ _ _ _ _ hd =>
    simp only [hd, select_wip, receive_wip] at hw
    simpa [hd] using hi hw
  | deselect d _ _ _ hd _ ht => rw [ht] at hw ⊢; exact deselect_pend hd hi hw

theorem complete_pend {d : Device} (hk : d.kind = .reference) (hi : d.wip = false → d.pend = []) : d.complete.pend = [] := by
  cases hw : d.wip with
  | true => rw [complete_of_busy d hk hw]
  | false => rw [complete_of_idle d hw]; exact hi hw

/-! ### The obligation -/

theorem row_kind (h : Row s t) : t.device.kind = s.device.kind := by
  cases row_linkEffect h with
  | stay h => rw [h]
  | silent _ _ _ hd | host _ _ _ _ _ hd | hold _ _ _ _ _ hd => rw [hd]
  | select _ _ _ _ hd | exchange _ _ _ _ _ hd => simp [hd]
  | deselect d _ _ _ hd _ ht => rw [ht, deselect_kind hd]

theorem row_keeps_deviceInv (h : Row s t) (hbus : BusInv s) (hi : DeviceInv s) : DeviceInv t := by
  intro hk
  rw [row_kind h] at hk
  obtain ⟨hframe, hpend, hseen⟩ := hi hk
  obtain ⟨b, hb, hat⟩ := id hbus
  exact ⟨row_keeps_frameFollows h hk hbus hframe, row_pend h hpend,
    row_keeps_pollSeen h hk (frameFits_of_busAt hat (hframe b hb)) hseen⟩

theorem complete_keeps_deviceInv (hi : DeviceInv s) : DeviceInv { s with device := s.device.complete } := by
  intro hk
  rw [complete_kind] at hk
  obtain ⟨hframe, hpend, hseen⟩ := hi hk
  exact ⟨fun b hb => (complete_frame _).trans (hframe b hb), fun _ => complete_pend hk hpend, complete_keeps_pollSeen hseen⟩

/-- A reset that leaves the reference device attached finds no transaction open. -/
theorem reset_keeps_deviceInv (hbus : BusInv s) (hi : DeviceInv s) : DeviceInv (reset s) := by
  unfold reset
  split
  · intro hk
    cases hk
  · rename_i hidle
    intro hk
    obtain ⟨hframe, hpend, -⟩ := hi hk
    obtain ⟨b, hb, hat⟩ := hbus
    have hsent : b.sent = [] := by
      have hp : s.phase = .uninit ∨ s.phase = .idle := by simpa [State.busy, Classical.or_iff_not_imp_left] using hidle
      rcases hp with hp | hp <;> (simp only [BusAt, hp] at hat; subst hat; rfl)
    refine ⟨fun b' hb' => ?_, hpend, nofun, nofun, nofun⟩
    have hb'' : BusState.between = b' := by simpa [busScan] using hb'
    rw [← hb'']
    exact (hframe b hb).trans hsent

/-- Settles O47: the frame follows the monitor, and with the frames that the bus invariant gives the phases, each row hands the next
phase what was seen of the device. -/
theorem deviceKept : Obligations.DeviceKept := by
  intro s t _ hbus hi h
  rcases step_cases h with ⟨v, hturn, hc⟩ | ⟨rest, -, rfl⟩ | ⟨rest, -, rfl⟩ | ⟨rest, q, -, rfl⟩ | ⟨rest, k, b, -, rfl⟩
  · have hrow := controllerStep_row hc
    rw [turn_eq hturn] at hrow
    have hkept := row_keeps_deviceInv hrow hbus hi
    exact hkept
  · exact complete_keeps_deviceInv hi
  · exact reset_keeps_deviceInv (s := { s with schedule := rest }) hbus hi
  · exact hi
  · exact hi

end Sys2Proof.Machine
end

section
/-! SUPPORT. The sequencer and the reference device in step with each other, whatever the trace before: what every row and every
`Complete` keeps while an operation runs, and what a row does to the bytes that the array holds once the write cycle has ended. -/

namespace Sys2Proof.Machine

variable {s t : State} {c : Config} {d d' : Device}

/-! ### Sequencer and device in step -/

/-- The device is the reference device, its array canonical; the registers are in their bounds; an open transaction has brought it the
bytes sent; and what the last poll saw of it is true. -/
structure Synced (s : State) : Prop where
  kind : s.device.kind = .reference
  wf : s.device.mem.wf = true
  registers : PhaseInv s
  frame : s.phase.selected = true → s.device.frame = sentBytes s
  seen : PollSeen s

theorem selected_eq_false_of_not_inTransaction {p : Phase} (h : p.inTransaction = false) : p.selected = false := by
  revert h
  cases p <;> decide

theorem selected_eq_false_of_holding {p : Phase} (h : p.holding = true) : p.selected = false := by
  revert h
  cases p <;> decide

/-- Where no operation runs nothing is asked of the registers, the frame or the last poll. -/
theorem synced_of_idle (hp : s.phase = .idle) (hk : s.device.kind = .reference) (hwf : s.device.mem.wf = true) :
    Synced s where
  kind := hk
  wf := hwf
  registers := by simp only [PhaseInv, hp]
  frame := by rw [hp]; nofun
  seen := by rw [PollSeen, hp]; exact ⟨nofun, nofun, nofun⟩

theorem Synced.frameFits (h : Synced s) : FrameFits s := by
  have hf := h.frame
  unfold FrameFits
  split
  case h_1 hp => simpa [hp, Phase.selected, sentBytes] using hf
  case h_2 hp => exact ⟨_, by simpa [hp, Phase.selected, sentBytes] using hf⟩
  case h_3 hp =>
    obtain ⟨rest, hr⟩ := readFrameDone_cons s
    exact ⟨rest, by simpa [hp, Phase.selected, sentBytes, hr] using hf⟩
  case h_4 hp => simpa [hp, Phase.selected, sentBytes] using hf
  case h_5 => trivial

theorem row_keeps_frame (h : Row s t) (hs : Synced s) (ht : t.phase.selected = true) : t.device.frame = sentBytes t := by
  cases row_linkEffect h with
  | stay h => rw [h] at ht ⊢; exact hs.frame ht
  | silent _ hn | host _ _ _ hn | hold _ _ hn => simp [selected_eq_false_of_not_inTransaction hn] at ht
  | select _ _ hsent _ hd => rw [hd, select_frame _ hs.kind, hsent]
  | exchange o hsel _ hsent _ hd => rw [hd, receive_frame _ hs.kind, hs.frame hsel, hsent hs.registers]
  | deselect _ _ hh => simp [selected_eq_false_of_holding hh] at ht

theorem row_keeps_synced (h : Row s t) (hs : Synced s) : Synced t where
  kind := (row_kind h).trans hs.kind
  wf := by rw [row_keeps_mem h]; exact hs.wf
  registers := row_keeps_phaseInv h hs.registers
  frame := row_keeps_frame h hs
  seen := row_keeps_pollSeen h hs.kind hs.frameFits hs.seen

theorem complete_keeps_synced (hs : Synced s) : Synced { s with device := s.device.complete } where
  kind := (complete_kind _).trans hs.kind
  wf := complete_wf hs.wf
  registers := hs.registers
  frame := fun hp => (complete_frame _).trans (hs.frame hp)
  seen := complete_keeps_pollSeen hs.seen

/-! ### What the array comes to hold -/

/-- The byte at an address once the write cycle that runs, if one does, has ended (20_memory R71). -/
def Device.settled (d : Device) (a : Nat) : Byte := d.complete.mem.read a

theorem settled_of_idle (hw : d.wip = false) : d.settled = d.mem.read := by
  funext a
  rw [Device.settled, complete_of_idle d hw]

theorem complete_complete (d : Device) : d.complete.complete = d.complete := by
  cases hk : d.kind with
  | arbitrary => rw [complete_of_arbitrary d hk, complete_of_arbitrary d hk]
  | reference =>
    cases hw : d.wip with
    | true => exact complete_of_idle _ (by rw [complete_of_busy d hk hw])
    | false => rw [complete_of_idle d hw, complete_of_idle d hw]

@[simp] theorem settled_complete (d : Device) : d.complete.settled = d.settled := by
  funext a
  rw [Device.settled, complete_complete, Device.settled]

theorem settled_of_kept (hk : d'.kind = d.kind := by simp) (hm : d'.mem = d.mem := by simp)
    (hp : d'.pend = d.pend := by simp) (hw : d'.wip = d.wip := by simp) : d'.settled = d.settled := by
  obtain ⟨kind, mem, wip, pend, wel, frame⟩ := d
  obtain ⟨kind', mem', wip', pend', wel', frame'⟩ := d'
  simp only at hk hm hp hw
  subst hk hm hp hw
  funext a
  cases kind' <;> cases wip' <;> rfl

/-- A frame of another command than WRITE stores nothing and starts no write cycle. -/
theorem deselect_keeps_settled (hk : d.kind = .reference) (hd : d.deselect c = .ok d') {o : Byte} {rest : List Byte}
    (hf : d.frame = o :: rest) (ho : o ≠ opcodeWrite) : d'.settled = d.settled := by
  obtain ⟨e, he, rfl⟩ := deselect_reference hk hd
  rw [hf] at he
  rcases takeFrame_cases he with rfl | ⟨-, -, rfl⟩ | ⟨-, -, rfl⟩ | ⟨_, _, _, hw, -, -, -, -⟩
  · exact settled_of_kept
  · exact settled_of_kept
  · exact settled_of_kept
  · rw [List.cons_eq_cons] at hw
    exact absurd hw.1 ho

/-- The old bytes with `n` of `data` over them from address `a` upward. -/
def overwritten (old : Nat → Byte) (a n : Nat) (data : List Byte) (x : Nat) : Byte :=
  if a ≤ x ∧ x < a + n then data.getD (x - a) 0x00#8 else old x

@[simp] theorem overwritten_zero (old : Nat → Byte) (a : Nat) (data : List Byte) : overwritten old a 0 data = old := by
  funext x
  simp only [overwritten, ite_eq_right_iff]
  omega

/-- A slice of the data over the bytes that come before it. -/
theorem overwritten_overwritten (old : Nat → Byte) (a k n : Nat) (data : List Byte) :
    overwritten (overwritten old a k data) (a + k) n ((data.drop k).take n) = overwritten old a (k + n) data := by
  funext x
  unfold overwritten
  by_cases hx : a + k ≤ x ∧ x < a + k + n
  · have h1 : x - (a + k) < n := by omega
    have h2 : k + (x - (a + k)) = x - a := by omega
    have h3 : a ≤ x ∧ x < a + (k + n) := by omega
    rw [if_pos hx, if_pos h3]
    simp [List.getD_eq_getElem?_getD, h1, h2]
  · rw [if_neg hx]
    by_cases hk : a ≤ x ∧ x < a + k
    · rw [if_pos hk, if_pos (by omega)]
    · rw [if_neg hk, if_neg (by omega)]

theorem read_writeAll_cellsFrom {m : Memory} (h : m.wf = true) (a : Nat) (data : List Byte) :
    (m.writeAll (cellsFrom a data)).read = overwritten m.read a data.length data := by
  induction data generalizing a m with
  | nil => simp [cellsFrom, Memory.writeAll]
  | cons b rest ih =>
    funext x
    rw [cellsFrom, Memory.writeAll, ih (write_wf h a b)]
    simp only [overwritten, read_write h, List.length_cons]
    rcases Nat.lt_trichotomy x a with hx | rfl | hx
    · rw [if_neg (by omega), if_neg (by omega), if_neg (by omega)]
    · rw [if_neg (by omega), if_pos rfl, if_pos (by omega)]
      simp
    · obtain ⟨j, rfl⟩ : ∃ j, x = a + 1 + j := ⟨x - (a + 1), by omega⟩
      have h1 : a + 1 + j - a = j + 1 := by omega
      by_cases hj : j < rest.length
      · rw [if_pos (by omega), if_pos (by omega), h1]
        simp
      · rw [if_neg (by omega), if_neg (by omega), if_neg (by omega)]

/-- A WRITE that an idle device takes is over its old bytes once its cycle has ended. -/
theorem settled_of_write (hk : d.kind = .reference) (hm : d.mem.wf = true) (hw : d.wip = false) (a : Nat) (data : List Byte) :
    ({ d with frame := [], pend := cellsFrom a data, wip := true } : Device).settled =
      overwritten d.settled a data.length data := by
  rw [settled_of_idle hw, ← read_writeAll_cellsFrom hm]
  funext x
  simp [Device.settled, Device.complete, hk]

/-! ### The rows that store nothing -/

theorem row_keeps_settled (h : Row s t) (hs : Synced s) (hp : s.phase ≠ .wrDesel) : t.device.settled = s.device.settled := by
  have hf := hs.frameFits
  cases h with
  | wrDesel _ hp' => exact absurd hp' hp
  | pollDesel d hp hd | rdDesel d hp hd =>
    simp only [FrameFits, hp] at hf
    obtain ⟨rest, hf⟩ := hf
    exact deselect_keeps_settled hs.kind hd hf (by decide)
  | wrenDesel d hp hd =>
    simp only [FrameFits, hp] at hf
    exact deselect_keeps_settled hs.kind hd hf (by decide)
  | wrdiDesel d hp hd =>
    have hf := hs.frame (by rw [hp]; rfl)
    simp only [sentBytes, hp] at hf
    exact deselect_keeps_settled hs.kind hd hf (by decide)
  | _ => exact settled_of_kept

end Sys2Proof.Machine
end

section
/-! SUPPORT. An operation being served: what acceptance latches and no row changes before the response; and how many bytes of a write
the device has taken, and with them what its array comes to hold. -/

namespace Sys2Proof.Machine

variable {s t : State} {c : Config} {op : HostOp} {r : Request} {rest : List Request}

/-! ### From acceptance to the response -/

/-- The controller is busy with request `r`, with `rest` still before it on the port. -/
structure Serving (c : Config) (op : HostOp) (r : Request) (rest : List Request) (s : State) : Prop where
  busy : s.busy = true
  config : s.config = c
  op : s.op = op
  address : s.A = r.address
  count : s.N = r.count
  requests : s.requests = rest

theorem busy_iff : s.busy = true ↔ s.phase ≠ .uninit ∧ s.phase ≠ .idle := decide_eq_true_iff

/-- A row of a busy controller leaves the request, its buffer and the port alone, and the controller busy but for the response. -/
theorem row_keeps_request (h : Row s t) (hb : s.busy = true) :
    t.op = s.op ∧ t.A = s.A ∧ t.N = s.N ∧ t.src = s.src ∧ t.requests = s.requests ∧
      (t.busy = true ∨ s.phase = .resp ∧ t = respond s) := by
  cases h with
  | waitUninit hp | refuseUninit hp | initUninit hp | waitIdle hp | refuseIdle hp | initIdle hp => simp [busy_iff, hp] at hb
  | acceptRead _ _ hp | acceptWrite _ _ hp => simp [busy_iff, hp] at hb
  | resp hp => exact ⟨rfl, rfl, rfl, rfl, rfl, .inr ⟨hp, rfl⟩⟩
  | rdDataStuck | rdHoldStuck | wrDataStuck => exact ⟨rfl, rfl, rfl, rfl, rfl, .inl hb⟩
  | _ => exact ⟨by simp, by simp, by simp, by simp, by simp, .inl rfl⟩

theorem row_keeps_serving (h : Row s t) (hs : Serving c op r rest s) :
    Serving c op r rest t ∨ s.phase = .resp ∧ t = respond s := by
  obtain ⟨hop, hA, hN, -, hreq, hb | hresp⟩ := row_keeps_request h hs.busy
  · exact .inl ⟨hb, (row_keeps_config h).trans hs.config, hop.trans hs.op, hA.trans hs.address, hN.trans hs.count,
      hreq.trans hs.requests⟩
  · exact .inr hresp

theorem complete_keeps_serving (hs : Serving c op r rest s) : Serving c op r rest { s with device := s.device.complete } :=
  ⟨hs.busy, hs.config, hs.op, hs.address, hs.count, hs.requests⟩

/-! ### The phases of a write -/

/-- A controller busy with a write is in no phase of READ. -/
theorem write_not_reading (hi : PhaseInv s) (hop : s.op = .write) :
    s.phase ∉ [Phase.rdSel, .rdOp, .rdAh, .rdAl, .rdData, .rdDesel, .rdHold] := by
  intro hp
  simp only [List.mem_cons, List.not_mem_nil, or_false] at hp
  rcases hp with hp | hp | hp | hp | hp | hp | hp <;> simp [PhaseInv, hp, hop] at hi

/-- How many bytes of the request the device has taken: those of the chunks before, and the chunk's own once its WRITE has ended. -/
def bytesTaken (s : State) : Nat :=
  match s.phase with
  | .check => 0
  | .resp => s.N
  | .wrHold | .wrdiSel | .wrdiOp | .wrdiDesel | .wrdiHold => s.cur - s.A + s.n
  | _ => s.cur - s.A

theorem chunkInv_of_phase (hi : PhaseInv s)
    (hp : s.phase ∈ [Phase.wrData, .wrDesel, .wrHold, .wrdiSel, .wrdiOp, .wrdiDesel, .wrdiHold]) : ChunkInv s := by
  simp only [List.mem_cons, List.not_mem_nil, or_false] at hp
  rcases hp with hp | hp | hp | hp | hp | hp | hp
  all_goals
    simp only [PhaseInv, hp] at hi
    obtain ⟨-, hch, -⟩ := hi
    exact hch

/-- Only the end of WRITE adds to the bytes taken. -/
theorem row_bytesTaken (h : Row s t) (hb : s.busy = true) (hop : s.op = .write) (hr : outOfRange s.config s.A s.N = false)
    (hi : PhaseInv s) (hd : s.phase ≠ .wrDesel) (hresp : s.phase ≠ .resp) : bytesTaken t = bytesTaken s := by
  have hrd := write_not_reading hi hop
  cases h with
  | waitUninit hp | refuseUninit hp | initUninit hp | waitIdle hp | refuseIdle hp | initIdle hp => simp [busy_iff, hp] at hb
  | acceptRead _ _ hp | acceptWrite _ _ hp => simp [busy_iff, hp] at hb
  | wrDesel _ hp => exact absurd hp hd
  | resp hp => exact absurd hp hresp
  | checkOut _ ho => simp [ho] at hr
  | checkRead _ _ hop' | pollReadNone _ _ hop' | pollRead _ _ hop' => simp [hop'] at hop
  | rdSel hp | rdOp hp | rdAh hp | rdAl hp | rdDataStuck hp | rdDataMore hp | rdDataLast hp => simp [hp] at hrd
  | rdDesel _ hp | rdHoldMore hp | rdHoldDone hp | rdHoldStuck hp => simp [hp] at hrd
  | checkWrite hp => simp [bytesTaken, hp]
  | splitDone hp hc => simp [bytesTaken, hp, hc]
  | wrdiHold hp =>
    obtain ⟨-, hle, -⟩ := chunkInv_of_phase hi (by simp [hp])
    simp only [bytesTaken, hp, hold_A]
    omega
  | wrDataStuck => rfl
  | splitMore hp | pollSel hp | pollOp hp | pollDummy hp | pollDesel _ hp | pollHold hp | pollAgain hp | pollWrite hp =>
    simp [bytesTaken, hp]
  | wrenSel hp | wrenOp hp | wrenDesel _ hp | wrenHold hp | wrSel hp | wrOp hp | wrAh hp | wrAl hp => simp [bytesTaken, hp]
  | wrDataMore _ hp | wrDataLast _ hp | wrHold hp | wrdiSel hp | wrdiOp hp | wrdiDesel _ hp => simp [bytesTaken, hp]

/-! ### The end of WRITE -/

/-- The chunk's slice of the source (20_memory R77). -/
def chunkData (s : State) : List Byte := (s.src.drop (s.cur - s.A)).take s.n

theorem length_chunkData (hi : ChunkInv s) (hsrc : s.N ≤ s.src.length) : (chunkData s).length = s.n := by
  obtain ⟨-, hA, -, -, hend⟩ := hi
  simp only [chunkData, List.length_take, List.length_drop]
  omega

theorem addressField_cur (hi : ChunkInv s) (hr : InRange s) : (addressField s.cur).toNat = s.cur := by
  obtain ⟨-, hA, h1, -, hend⟩ := hi
  obtain ⟨-, hmax, -⟩ := hr
  have := maxAddress_le s.config
  exact addressField_toNat (by omega)

theorem row_of_wrDesel {d : Device} (h : Row s t) (hp : s.phase = .wrDesel) (hd : s.device.deselect s.config = .ok d) :
    t = { s with csSel := false, linkEn := false, device := d, trace := s.trace ++ [.desel], phase := .wrHold } := by
  have hstep := controllerStep_of_row h (by rw [busy_iff, hp]; decide)
  rw [row_wrDesel hp, deselectStep_of_deselect hd] at hstep
  exact (Host.Outcome.next.inj hstep).symm

/-- The device takes the chunk: it is idle, its latch is set, and the chunk lies in one page of the array. -/
theorem deselect_of_wrDesel (hs : Synced s) (hp : s.phase = .wrDesel) (hsrc : s.N ≤ s.src.length) :
    s.device.deselect s.config =
      .ok { s.device with frame := [], pend := cellsFrom s.cur (chunkData s), wip := true } := by
  have hi := hs.registers
  simp only [PhaseInv, hp] at hi
  obtain ⟨hr, hch, hin⟩ := hi
  obtain ⟨-, hidle, hlatch⟩ := hs.seen
  have hf := hs.frame (by rw [hp]; rfl)
  have hlen := length_chunkData hch hsrc
  have hcur := addressField_cur hch hr
  simp only [sentBytes, hp, hin] at hf
  have ha : writeAccepted s.config (joinAddr (hi8 (addressField s.cur)) (lo8 (addressField s.cur))).toNat
      (chunkData s).length = true := by
    obtain ⟨-, hmax, -⟩ := hr
    obtain ⟨-, -, h1, hpage, hend⟩ := hch
    rw [joinAddr_hi8_lo8, hcur, hlen]
    exact writeAccepted_of_le_toPageEnd _ _ _ h1 hpage (hend.trans hmax)
  have hd := deselect_write hs.kind hf (hidle (by rw [hp]; rfl)) (hlatch (by rw [hp]; rfl)) ha
  rwa [joinAddr_hi8_lo8, hcur] at hd

/-- What a write in progress has come to: the old bytes, with those of the source that the device has taken over them. -/
theorem row_keeps_overwritten {old : Nat → Byte} (h : Row s t) (hs : Synced s) (hb : s.busy = true) (hop : s.op = .write)
    (hr : outOfRange s.config s.A s.N = false) (hsrc : s.N ≤ s.src.length) (hresp : s.phase ≠ .resp)
    (hm : s.device.settled = overwritten old s.A (bytesTaken s) s.src) :
    t.device.settled = overwritten old t.A (bytesTaken t) t.src := by
  by_cases hp : s.phase = .wrDesel
  · have hch := chunkInv_of_phase hs.registers (by simp [hp])
    obtain ⟨-, hle, -⟩ := id hch
    obtain ⟨-, hidle, -⟩ := hs.seen
    have htaken := settled_of_write hs.kind hs.wf (hidle (by rw [hp]; rfl)) s.cur (chunkData s)
    have hcur : s.A + (s.cur - s.A) = s.cur := by omega
    obtain rfl := row_of_wrDesel h hp (deselect_of_wrDesel hs hp hsrc)
    rw [htaken, hm, length_chunkData hch hsrc]
    simp only [bytesTaken, hp, ← overwritten_overwritten, hcur]
    rfl
  · obtain ⟨-, hA, -, hS, -, -⟩ := row_keeps_request h hb
    rw [hA, hS, row_keeps_settled h hs hp, row_bytesTaken h hb hop hr hs.registers hp hresp, hm]

end Sys2Proof.Machine
end

section
/-! SUPPORT. The trace of a write in progress: the pages of the chunks behind it, and of the present chunk the transactions behind it
and the events of the one that is open (44_host_operations R195). -/

namespace Sys2Proof.Machine

variable {s t : State} {c : Config} {pre tr : List Event}

/-! ### Chunks and pages -/

theorem chunksFrom_done (c : Config) (fuel stop : Nat) : chunksFrom c fuel stop stop = [] := by
  cases fuel <;> simp [chunksFrom]

/-- Fuel beyond the bytes left changes nothing. -/
theorem chunksFrom_of_le {fuel cur stop : Nat} (h : stop - cur ≤ fuel) (hc : cur ≤ stop) :
    chunksFrom c fuel cur stop = chunksFrom c (stop - cur) cur stop := by
  induction hk : stop - cur using Nat.strong_induction_on generalizing fuel cur with
  | _ k ih =>
    rcases hc.eq_or_lt with rfl | hlt
    · rw [chunksFrom_done, chunksFrom_done]
    · obtain ⟨h1, -, hend⟩ := chunkLength_bounds c hlt
      obtain ⟨fuel, rfl⟩ : ∃ j, fuel = j + 1 := ⟨fuel - 1, by omega⟩
      obtain ⟨k, rfl⟩ : ∃ j, k = j + 1 := ⟨k - 1, by omega⟩
      have hleft : stop - (cur + chunkLength c cur stop) < k + 1 := by omega
      have hrec : ∀ fuel, stop - (cur + chunkLength c cur stop) ≤ fuel →
          chunksFrom c fuel (cur + chunkLength c cur stop) stop =
            chunksFrom c (stop - (cur + chunkLength c cur stop)) (cur + chunkLength c cur stop) stop :=
        fun fuel hf => ih _ hleft hf hend rfl
      simp only [chunksFrom, hlt.ne, if_false]
      rw [hrec fuel (by omega), hrec k (by omega)]

/-- The next chunk, and the chunks after it. -/
theorem chunksFrom_next {cur stop : Nat} (h : cur < stop) :
    chunksFrom c (stop - cur) cur stop = (cur, chunkLength c cur stop) ::
      chunksFrom c (stop - (cur + chunkLength c cur stop)) (cur + chunkLength c cur stop) stop := by
  obtain ⟨h1, -, hend⟩ := chunkLength_bounds c h
  obtain ⟨k, hk⟩ : ∃ j, stop - cur = j + 1 := ⟨stop - cur - 1, by omega⟩
  rw [hk]
  simp only [chunksFrom, h.ne, if_false]
  rw [chunksFrom_of_le (by omega) hend]

theorem isPages_append {A : Nat} {src : List Byte} {cs cs' : List (Nat × Nat)} {tr tr' : List Event}
    (h : IsPages c A src cs tr) (h' : IsPages c A src cs' tr') : IsPages c A src (cs ++ cs') (tr ++ tr') := by
  induction h with
  | none => exact h'
  | page a n cs tr rest hp _ ih =>
    rw [List.append_assoc]
    exact .page a n _ tr _ hp ih

/-- The chunks that are not behind it: at S_SPLIT those from `cur` on, inside a chunk that one and those after it. -/
def chunksLeft (s : State) : List (Nat × Nat) :=
  match s.phase with
  | .check => chunksOf s.config s.A s.N
  | .resp => []
  | .split => chunksFrom s.config (s.A + s.N - s.cur) s.cur (s.A + s.N)
  | _ => (s.cur, s.n) :: chunksFrom s.config (s.A + s.N - (s.cur + s.n)) (s.cur + s.n) (s.A + s.N)

/-! ### Polls -/

/-- Polls that all saw bit 0 set. -/
inductive BusyPolls (c : Config) : List Event → Prop
  | none : BusyPolls c []
  | more (st : Byte) (polls tr : List Event) : BusyPolls c polls → IsRdsr c st tr → statusBusy st = true →
      BusyPolls c (polls ++ tr)

theorem isIdle_of_busyPolls {polls rest : List Event} (h : BusyPolls c polls) (hr : IsIdle c rest) :
    IsIdle c (polls ++ rest) := by
  induction h generalizing rest with
  | none => exact hr
  | more st polls tr _ htr hb ih =>
    rw [List.append_assoc]
    exact ih (.again st tr rest htr hb hr)

/-! ### The present chunk -/

/-- What the present chunk has put on the bus before the transaction of the phase. -/
def BeforeTransaction (s : State) (tr : List Event) : Prop :=
  match s.phase with
  | .pollSel | .pollOp | .pollDummy | .pollDesel | .pollHold => BusyPolls s.config tr
  | .pollTest => ∃ polls poll, BusyPolls s.config polls ∧ IsRdsr s.config s.sr poll ∧ tr = polls ++ poll
  | .wrenSel | .wrenOp | .wrenDesel | .wrenHold => IsIdle s.config tr
  | .wrSel | .wrOp | .wrAh | .wrAl | .wrData | .wrDesel | .wrHold =>
    ∃ idle wren, IsIdle s.config idle ∧ IsTx s.config [opcodeWren] wren ∧ tr = idle ++ wren
  | .wrdiSel | .wrdiOp | .wrdiDesel | .wrdiHold =>
    ∃ idle wren write, IsIdle s.config idle ∧ IsTx s.config [opcodeWren] wren ∧
      IsTx s.config (writeFrame (addressField s.cur) (chunkData s)) write ∧ tr = idle ++ wren ++ write
  | _ => tr = []

/-- The events of the transaction that the phase is in. The byte that came back last in a poll is the one in `sr`. -/
def OpenTransaction (s : State) (tr : List Event) : Prop :=
  if s.phase.inTransaction = true then
    ∃ got, got.length = (sentBytes s).length ∧ (s.phase = .pollDesel ∨ s.phase = .pollHold → got.getLast? = some s.sr) ∧
      tr = .sel :: (List.zipWith .xfer (sentBytes s) got ++ if s.phase.holding = true then [.desel] else [])
  else tr = []

/-- After `pre` the trace holds what the present chunk has put on the bus, and nothing else. -/
def ChunkTraced (pre : List Event) (s : State) : Prop :=
  ∃ before link, BeforeTransaction s before ∧ OpenTransaction s link ∧ s.trace = pre ++ (before ++ link)

theorem openTransaction_of_not_inTransaction (h : s.phase.inTransaction = false) : OpenTransaction s tr ↔ tr = [] := by
  simp [OpenTransaction, h]

theorem openTransaction_of_selected (h : s.phase.selected = true) : OpenTransaction s tr ↔
    ∃ got, got.length = (sentBytes s).length ∧ (s.phase = .pollDesel → got.getLast? = some s.sr) ∧
      tr = .sel :: List.zipWith .xfer (sentBytes s) got := by
  have hh : s.phase.holding = false := by
    by_contra hh
    simp [selected_eq_false_of_holding (by simpa using hh)] at h
  have hp : s.phase ≠ .pollHold := by rintro hp; simp [hp, Phase.selected] at h
  simp [OpenTransaction, Phase.inTransaction, h, hh, hp]

theorem openTransaction_of_holding (h : s.phase.holding = true) : OpenTransaction s tr ↔
    ∃ got, got.length = (sentBytes s).length ∧ (s.phase = .pollHold → got.getLast? = some s.sr) ∧
      tr = .sel :: (List.zipWith .xfer (sentBytes s) got ++ [.desel]) := by
  have hp : s.phase ≠ .pollDesel := by rintro hp; simp [hp, Phase.holding] at h
  simp [OpenTransaction, Phase.inTransaction, h, hp]

/-- A row inside a transaction, or the selection that opens it, adds its event to the open transaction. -/
theorem chunkTraced_within (heff : LinkEffect s t) (ht : t.phase.inTransaction = true) (hi : PhaseInv s)
    (hbefore : ∀ tr, BeforeTransaction s tr → BeforeTransaction t tr)
    (hsr : (t.phase = .pollDesel → ∃ o, t.trace = s.trace ++ [.xfer o t.sr]) ∧
      (t.phase = .pollHold → s.phase = .pollDesel ∧ t.sr = s.sr)) (h : ChunkTraced pre s) : ChunkTraced pre t := by
  obtain ⟨before, link, hb, hl, htr⟩ := h
  cases heff with
  | stay h => subst h; exact ⟨before, link, hb, hl, htr⟩
  | silent _ hn | host _ _ _ hn | hold _ _ hn => simp [hn] at ht
  | select hs hsel hsent he =>
    rw [openTransaction_of_not_inTransaction hs] at hl
    have hp : t.phase ≠ .pollDesel := by
      intro hp
      simp only [sentBytes, hp] at hsent
      simp at hsent
    refine ⟨before, [.sel], hbefore _ hb, (openTransaction_of_selected hsel).2 ⟨[], ?_, fun h => absurd h hp, ?_⟩, ?_⟩
    · simp [hsent]
    · simp [hsent]
    · rw [he, htr, hl]
      simp
  | exchange o hs hsel hsent he =>
    obtain ⟨got, hlen, -, rfl⟩ := (openTransaction_of_selected hs).1 hl
    have hsent := hsent hi
    refine ⟨before, _, hbefore _ hb, (openTransaction_of_selected hsel).2 ⟨got ++ [received s o], ?_, fun hp => ?_, rfl⟩, ?_⟩
    · simp [hsent, hlen]
    · obtain ⟨o', ho'⟩ := hsr.1 hp
      obtain ⟨-, hv⟩ : o = o' ∧ received s o = t.sr := by simpa [he] using ho'
      simp [hv]
    · rw [he, htr, hsent, List.zipWith_append hlen.symm]
      simp
  | deselect d hs hh hsent _ he =>
    obtain ⟨got, hlen, hgot, rfl⟩ := (openTransaction_of_selected hs).1 hl
    refine ⟨before, _, hbefore _ hb, (openTransaction_of_holding hh).2 ⟨got, ?_, fun hp => ?_, rfl⟩, ?_⟩
    · simp [hsent, hlen]
    · obtain ⟨hp', hs'⟩ := hsr.2 hp
      rw [hs']
      exact hgot hp'
    · rw [he, htr, hsent]
      simp

/-- The hold ends the transaction. -/
theorem chunkTraced_hold {d : Nat} (hp : s.phase.holding = true) (hd : s.config.tCsdMin ≤ d) (h : ChunkTraced pre s) :
    ∃ before done, BeforeTransaction s before ∧ IsTx s.config (sentBytes s) done ∧
      (s.phase = .pollHold → IsRdsr s.config s.sr done) ∧ s.trace ++ [.hold d] = pre ++ (before ++ done) := by
  obtain ⟨before, link, hb, hl, htr⟩ := h
  obtain ⟨got, hlen, hgot, rfl⟩ := (openTransaction_of_holding hp).1 hl
  refine ⟨before, tx (sentBytes s) got d, hb, ⟨got, d, hlen, hd, rfl⟩, fun hpoll => ?_, ?_⟩
  · have hgot := hgot hpoll
    simp only [sentBytes, hpoll] at hlen ⊢
    obtain ⟨v, w, rfl⟩ := List.length_eq_two.1 hlen
    obtain rfl : w = s.sr := by simpa using hgot
    exact ⟨v, d, hd, rfl⟩
  · rw [htr]
    simp [tx]

end Sys2Proof.Machine
end

section
/-! SUPPORT. The trace of a write through every row, from the range check to the response. -/

namespace Sys2Proof.Machine

variable {s t : State} {pre : List Event}

/-- The trace since the write began: its request, the pages of the chunks behind it, and the present chunk's events. -/
def WriteTraced (pre : List Event) (s : State) : Prop :=
  ∃ done pages, chunksOf s.config s.A s.N = done ++ chunksLeft s ∧ IsPages s.config s.A s.src done pages ∧
    ChunkTraced (pre ++ .req .write s.A s.N :: pages) s

/-! ### Between transactions -/

theorem chunkTraced_of_not_inTransaction (h : s.phase.inTransaction = false) :
    ChunkTraced pre s ↔ ∃ before, BeforeTransaction s before ∧ s.trace = pre ++ before := by
  simp [ChunkTraced, openTransaction_of_not_inTransaction h]

/-- A silent row between transactions. -/
theorem chunkTraced_silent (hs : s.phase.inTransaction = false) (ht : t.phase.inTransaction = false)
    (he : t.trace = s.trace) (hb : ∀ tr, BeforeTransaction s tr → BeforeTransaction t tr) (h : ChunkTraced pre s) :
    ChunkTraced pre t := by
  rw [chunkTraced_of_not_inTransaction hs] at h
  rw [chunkTraced_of_not_inTransaction ht, he]
  obtain ⟨before, h1, h2⟩ := h
  exact ⟨before, hb _ h1, h2⟩

/-- A row that ends a transaction, the next phase having it behind it. -/
theorem chunkTraced_held {d : Nat} (hs : s.phase.holding = true) (ht : t.phase.inTransaction = false)
    (he : t.trace = s.trace ++ [.hold d]) (hd : s.config.tCsdMin ≤ d)
    (hb : ∀ before done, BeforeTransaction s before → IsTx s.config (sentBytes s) done →
      (s.phase = .pollHold → IsRdsr s.config s.sr done) → BeforeTransaction t (before ++ done))
    (h : ChunkTraced pre s) : ChunkTraced pre t := by
  obtain ⟨before, done, h1, h2, h3, h4⟩ := chunkTraced_hold hs hd h
  rw [chunkTraced_of_not_inTransaction ht, he]
  exact ⟨before ++ done, hb before done h1 h2 h3, h4⟩

/-! ### The pages -/

/-- A row inside a chunk: the chunks behind it stay, and the present one's events are those of the next phase. -/
theorem writeTraced_of_chunkTraced (hb : s.busy = true) (h : Row s t) (hleft : chunksLeft t = chunksLeft s)
    (hc : ∀ pre, ChunkTraced pre s → ChunkTraced pre t) (hw : WriteTraced pre s) : WriteTraced pre t := by
  obtain ⟨-, hA, hN, hsrc, -, -⟩ := row_keeps_request h hb
  obtain ⟨done, pages, h1, h2, h3⟩ := hw
  refine ⟨done, pages, ?_, ?_, ?_⟩
  · rw [row_keeps_config h, hA, hN, hleft, h1]
  · rw [row_keeps_config h, hA, hsrc]
    exact h2
  · rw [hA, hN]
    exact hc _ h3

/-- The hold of WRDI ends the page. -/
theorem writeTraced_wrdiHold (hp : s.phase = .wrdiHold) (hw : WriteTraced pre s) :
    WriteTraced pre { hold s with cur := s.cur + s.n, phase := .split } := by
  obtain ⟨done, pages, h1, h2, h3⟩ := hw
  obtain ⟨before, wrdi, h4, h5, -, h6⟩ := chunkTraced_hold (by rw [hp]; rfl) (le_holdTime s) h3
  simp only [BeforeTransaction, hp] at h4
  obtain ⟨idle, wren, write, hidle, hwren, hwrite, rfl⟩ := h4
  simp only [sentBytes, hp] at h5
  have hpage : IsPage s.config s.cur (chunkData s) (idle ++ wren ++ write ++ wrdi) :=
    ⟨idle, wren, write, wrdi, hidle, hwren, hwrite, h5, rfl⟩
  refine ⟨done ++ [(s.cur, s.n)], pages ++ (idle ++ wren ++ write ++ wrdi), ?_, ?_, ?_⟩
  · simpa [chunksLeft, hp] using h1
  · simpa using isPages_append h2 (.page s.cur s.n [] _ [] hpage .none)
  · rw [chunkTraced_of_not_inTransaction rfl]
    exact ⟨[], rfl, by simpa using h6⟩

theorem row_keeps_writeTraced (h : Row s t) (hb : s.busy = true) (hop : s.op = .write)
    (hr : outOfRange s.config s.A s.N = false) (hi : PhaseInv s) (hresp : s.phase ≠ .resp) (hw : WriteTraced pre s) :
    WriteTraced pre t := by
  have hrd := write_not_reading hi hop
  have heff := row_linkEffect h
  have hkeep := writeTraced_of_chunkTraced (pre := pre) hb h
  cases h with
  | waitUninit hp | refuseUninit hp | initUninit hp | waitIdle hp | refuseIdle hp | initIdle hp => simp [busy_iff, hp] at hb
  | acceptRead _ _ hp | acceptWrite _ _ hp => simp [busy_iff, hp] at hb
  | resp hp => exact absurd hp hresp
  | checkOut _ ho => simp [ho] at hr
  | checkRead _ _ hop' | pollReadNone _ _ hop' | pollRead _ _ hop' => simp [hop'] at hop
  | rdSel hp | rdOp hp | rdAh hp | rdAl hp | rdDataStuck hp | rdDataMore hp | rdDataLast hp => simp [hp] at hrd
  | rdDesel _ hp | rdHoldMore hp | rdHoldDone hp | rdHoldStuck hp => simp [hp] at hrd
  | wrDataStuck => exact hw
  | checkWrite hp =>
    refine hkeep ?_ (fun pre => chunkTraced_silent (by rw [hp]; rfl) rfl rfl fun tr => ?_) hw
    · simp [chunksLeft, hp, chunksOf]
    · simp [BeforeTransaction, hp]
  | splitDone hp hc =>
    refine hkeep ?_ (fun pre => chunkTraced_silent (by rw [hp]; rfl) rfl rfl fun tr => ?_) hw
    · simp [chunksLeft, hp, hc, chunksFrom_done]
    · simp [BeforeTransaction, hp]
  | splitMore hp hc =>
    simp only [PhaseInv, hp] at hi
    obtain ⟨-, -, -, hend⟩ := hi
    refine hkeep ?_ (fun pre => chunkTraced_silent (by rw [hp]; rfl) rfl rfl fun tr htr => ?_) hw
    · simp only [chunksLeft, hp]
      exact (chunksFrom_next (lt_of_le_of_ne hend hc)).symm
    · simp only [BeforeTransaction, hp] at htr
      rw [htr]
      exact .none
  | pollAgain hp hbusy =>
    refine hkeep ?_ (fun pre => chunkTraced_silent (by rw [hp]; rfl) rfl rfl fun tr htr => ?_) hw
    · simp [chunksLeft, hp]
    · simp only [BeforeTransaction, hp] at htr
      obtain ⟨polls, poll, h1, h2, rfl⟩ := htr
      exact .more _ _ _ h1 h2 hbusy
  | pollWrite hp hidle =>
    refine hkeep ?_ (fun pre => chunkTraced_silent (by rw [hp]; rfl) rfl rfl fun tr htr => ?_) hw
    · simp [chunksLeft, hp]
    · simp only [BeforeTransaction, hp] at htr
      obtain ⟨polls, poll, h1, h2, rfl⟩ := htr
      exact isIdle_of_busyPolls h1 (.seen _ _ h2 hidle)
  | pollSel hp | pollOp hp | wrenSel hp | wrenOp hp | wrenDesel _ hp | wrSel hp | wrOp hp | wrAh hp | wrAl hp =>
    refine hkeep ?_ (fun pre => chunkTraced_within heff rfl hi (fun tr => ?_) (by simp)) hw
    · simp [chunksLeft, hp]
    · simp [BeforeTransaction, hp]
  | wrDataMore _ hp | wrDataLast _ hp | wrDesel _ hp =>
    refine hkeep ?_ (fun pre => chunkTraced_within heff rfl hi (fun tr => ?_) (by simp)) hw
    · simp [chunksLeft, hp]
    · simp [BeforeTransaction, hp]
  | wrdiSel hp | wrdiOp hp | wrdiDesel _ hp =>
    refine hkeep ?_ (fun pre => chunkTraced_within heff rfl hi (fun tr => ?_) (by simp)) hw
    · simp [chunksLeft, hp]
    · simp [BeforeTransaction, hp, chunkData]
  | pollDummy hp =>
    refine hkeep ?_ (fun pre => chunkTraced_within heff rfl hi (fun tr => ?_) ⟨fun _ => ⟨_, rfl⟩, nofun⟩) hw
    · simp [chunksLeft, hp]
    · simp [BeforeTransaction, hp]
  | pollDesel _ hp =>
    refine hkeep ?_ (fun pre => chunkTraced_within heff rfl hi (fun tr => ?_) ⟨nofun, fun _ => ⟨hp, rfl⟩⟩) hw
    · simp [chunksLeft, hp]
    · simp [BeforeTransaction, hp]
  | pollHold hp =>
    refine hkeep ?_ (fun pre => chunkTraced_held (by rw [hp]; rfl) rfl rfl (le_holdTime s) fun before done h1 _ h3 => ?_) hw
    · simp [chunksLeft, hp]
    · simp only [BeforeTransaction, hp] at h1
      exact ⟨before, done, by simpa using h1, by simpa using h3 hp, rfl⟩
  | wrenHold hp =>
    refine hkeep ?_ (fun pre => chunkTraced_held (by rw [hp]; rfl) rfl rfl (le_holdTime s) fun before done h1 h2 _ => ?_) hw
    · simp [chunksLeft, hp]
    · simp only [BeforeTransaction, sentBytes, hp] at h1 h2
      exact ⟨before, done, by simpa using h1, by simpa using h2, rfl⟩
  | wrHold hp =>
    simp only [PhaseInv, hp] at hi
    obtain ⟨-, -, hin⟩ := hi
    refine hkeep ?_ (fun pre => chunkTraced_held (by rw [hp]; rfl) rfl rfl (le_holdTime s) fun before done h1 h2 _ => ?_) hw
    · simp [chunksLeft, hp]
    · simp only [BeforeTransaction, sentBytes, hp, hin] at h1 h2
      obtain ⟨idle, wren, h3, h4, rfl⟩ := h1
      exact ⟨idle, wren, done, by simpa using h3, by simpa using h4, by simpa [chunkData] using h2, rfl⟩
  | wrdiHold hp => exact writeTraced_wrdiHold hp hw

/-- The response ends the trace of the write. -/
theorem isWriteTrace_of_resp (hp : s.phase = .resp) (hr : outOfRange s.config s.A s.N = false) (hrs : s.rstat = .ok)
    (hw : WriteTraced pre s) :
    ∃ tr, (respond s).trace = pre ++ tr ∧ IsWriteTrace s.config s.A s.N s.src tr := by
  obtain ⟨done, pages, h1, h2, h3⟩ := hw
  rw [chunkTraced_of_not_inTransaction (by rw [hp]; rfl)] at h3
  obtain ⟨before, h4, h5⟩ := h3
  simp only [BeforeTransaction, hp] at h4
  simp only [chunksLeft, hp, List.append_nil] at h1
  refine ⟨.req .write s.A s.N :: (pages ++ [.resp .ok]), ?_, ?_⟩
  · simp [h5, h4, hrs]
  · rw [IsWriteTrace, hr, h1]
    exact ⟨pages, h2, rfl⟩

end Sys2Proof.Machine
end

section
/-! SUPPORT. A host write against the reference device, from the request on the port to the response: three stages, what takes each to
the next, and that the controller's step never fails in between. -/

namespace Sys2Proof.Machine

variable {s t : State}

/-- A write request in range whose buffer is long enough, and what it finds: the other requests, the bytes the array comes to hold,
and the trace. -/
structure WriteJob where
  config : Config
  request : Request
  rest : List Request
  old : Nat → Byte
  before : List Event
  op : request.op = 2#2
  address_fits : request.address < 2 ^ config.operandWidth
  count_fits : request.count < 2 ^ config.operandWidth
  inRange : outOfRange config request.address request.count = false
  buffer_fits : request.count ≤ request.buffer.length

variable {j : WriteJob}

/-- The request stands on the port of an idle controller. -/
structure WriteJob.Waiting (j : WriteJob) (s : State) : Prop where
  phase : s.phase = .idle
  config : s.config = j.config
  requests : s.requests = j.request :: j.rest
  kind : s.device.kind = .reference
  wf : s.device.mem.wf = true
  settled : s.device.settled = j.old
  trace : s.trace = j.before

/-- The controller is busy with the request. -/
structure WriteJob.Running (j : WriteJob) (s : State) : Prop where
  serving : Serving j.config .write j.request j.rest s
  source : s.src = j.request.buffer
  synced : Synced s
  settled : s.device.settled = overwritten j.old s.A (bytesTaken s) s.src
  traced : WriteTraced j.before s

/-- The write has ended with `Ok`, its bytes in the array or on their way there. -/
structure WriteJob.Done (j : WriteJob) (s : State) : Prop where
  phase : s.phase = .idle
  rstat : s.rstat = .ok
  config : s.config = j.config
  requests : s.requests = j.rest
  kind : s.device.kind = .reference
  wf : s.device.mem.wf = true
  settled : s.device.settled = overwritten j.old j.request.address j.request.count j.request.buffer
  trace : ∃ tr, s.trace = j.before ++ tr ∧ IsWriteTrace j.config j.request.address j.request.count j.request.buffer tr

/-! ### Acceptance -/

theorem controllerStep_acceptWrite {r : Request} {rest : List Request} (hp : s.phase = .idle) (hr : s.requests = r :: rest)
    (hop : r.op = 2#2) (ha : r.address < 2 ^ s.config.operandWidth) (hk : r.count < 2 ^ s.config.operandWidth) :
    controllerStep s = .next { acceptRequest .write r.address r.count s with src := r.buffer } := by
  have hd : decode s.config (.request r) = .ok (.hostWrite r.address r.count r.buffer) := by
    simp [decode, decodeRequest, hop, opInit, opRead, opWrite, Config.operandFits, ha, hk]
  rw [controllerStep_of_request (.inr hp) hr hd]
  simp [exec, execHostWrite, hp]

theorem WriteJob.Waiting.accept (h : j.Waiting s) : ∃ t, controllerStep s = .next t ∧ j.Running t := by
  have hstep := controllerStep_acceptWrite h.phase h.requests j.op (by rw [h.config]; exact j.address_fits)
    (by rw [h.config]; exact j.count_fits)
  refine ⟨_, hstep, ?_, rfl, ?_, ?_, ?_⟩
  · exact ⟨rfl, h.config, rfl, rfl, rfl, by simp [h.requests]⟩
  · exact row_keeps_synced (controllerStep_row hstep) (synced_of_idle h.phase h.kind h.wf)
  · simp [bytesTaken, h.settled]
  · refine ⟨[], [], rfl, .none, ?_⟩
    rw [chunkTraced_of_not_inTransaction rfl]
    exact ⟨[], rfl, by simp [h.trace]⟩

theorem WriteJob.Waiting.complete (h : j.Waiting s) : j.Waiting { s with device := s.device.complete } where
  phase := h.phase
  config := h.config
  requests := h.requests
  kind := (complete_kind _).trans h.kind
  wf := complete_wf h.wf
  settled := (settled_complete _).trans h.settled
  trace := h.trace

/-! ### While it runs -/

theorem WriteJob.Running.outOfRange (h : j.Running s) : outOfRange s.config s.A s.N = false := by
  rw [h.serving.config, h.serving.address, h.serving.count]
  exact j.inRange

theorem WriteJob.Running.buffer_fits (h : j.Running s) : s.N ≤ s.src.length := by
  rw [h.serving.count, h.source]
  exact j.buffer_fits

theorem WriteJob.Running.complete (h : j.Running s) : j.Running { s with device := s.device.complete } where
  serving := complete_keeps_serving h.serving
  source := h.source
  synced := complete_keeps_synced h.synced
  settled := (settled_complete _).trans h.settled
  traced := h.traced

/-- An operation that passed the range check is answered `Ok`. -/
theorem rstat_ok_of_resp (hp : s.phase = .resp) (hr : Machine.outOfRange s.config s.A s.N = false) (hi : PhaseInv s) :
    s.rstat = .ok := by
  simp only [PhaseInv, hp, hr, Bool.false_eq_true, iff_false] at hi
  cases hrs : s.rstat
  · rfl
  · exact absurd hrs hi

theorem WriteJob.Running.respond (h : j.Running s) (hp : s.phase = .resp) : j.Done (respond s) := by
  have hrs := rstat_ok_of_resp hp h.outOfRange h.synced.registers
  have htrace := isWriteTrace_of_resp hp h.outOfRange hrs h.traced
  have hsettled := h.settled
  simp only [bytesTaken, hp] at hsettled
  simp only [h.serving.config, h.serving.address, h.serving.count, h.source] at htrace hsettled
  exact ⟨rfl, hrs, h.serving.config, h.serving.requests, h.synced.kind, h.synced.wf, hsettled, htrace⟩

theorem WriteJob.Running.row (h : j.Running s) (hrow : Row s t) : j.Running t ∨ j.Done t := by
  by_cases hp : s.phase = .resp
  · have hstep := controllerStep_of_row hrow h.serving.busy
    rw [row_resp hp, respRow] at hstep
    obtain rfl := Host.Outcome.next.inj hstep
    exact .inr (h.respond hp)
  · obtain ⟨-, -, -, hsrc, -, -⟩ := row_keeps_request hrow h.serving.busy
    rcases row_keeps_serving hrow h.serving with hserving | ⟨hresp, -⟩
    · refine .inl ⟨hserving, hsrc.trans h.source, row_keeps_synced hrow h.synced, ?_, ?_⟩
      · exact row_keeps_overwritten hrow h.synced h.serving.busy h.serving.op h.outOfRange h.buffer_fits hp h.settled
      · exact row_keeps_writeTraced hrow h.serving.busy h.serving.op h.outOfRange h.synced.registers hp h.traced
    · exact absurd hresp hp

/-! ### The controller's step never fails -/

theorem checkRow_total (s : State) : ∃ t, checkRow s = .next t := by
  unfold checkRow
  split
  · exact ⟨_, rfl⟩
  · split <;> exact ⟨_, rfl⟩

theorem splitRow_total (s : State) : ∃ t, splitRow s = .next t := by
  unfold splitRow
  split <;> exact ⟨_, rfl⟩

theorem pollTestRow_total (s : State) : ∃ t, pollTestRow s = .next t := by
  unfold pollTestRow
  split
  · exact ⟨_, rfl⟩
  · split
    · exact ⟨_, rfl⟩
    · split <;> exact ⟨_, rfl⟩

theorem deselectStep_total {p : Phase} {d : Device} (h : s.device.deselect s.config = .ok d) : ∃ t, deselectStep p s = .next t :=
  ⟨_, deselectStep_of_deselect h⟩

/-- WRDI ends without a fault whether the device is busy or not. -/
theorem deselect_wrdi_total {c : Config} {d : Device} (hk : d.kind = .reference) (hf : d.frame = [opcodeWrdi]) :
    ∃ d', d.deselect c = .ok d' := by
  cases hw : d.wip with
  | true => exact ⟨_, deselect_busy hk hf hw⟩
  | false => exact ⟨_, deselect_wrdi hk hf hw⟩

/-- The byte that S_WR_DATA sends is in the buffer. -/
theorem memReadSrc_of_wrData (hi : PhaseInv s) (hp : s.phase = .wrData) (hsrc : s.N ≤ s.src.length) :
    s.i < s.n ∧ ∃ b, memReadSrc s (s.cur - s.A + s.i) = some b := by
  simp only [PhaseInv, hp] at hi
  obtain ⟨-, ⟨-, hA, -, -, hend⟩, hlt⟩ := hi
  exact ⟨hlt, _, List.getElem?_eq_getElem (by omega)⟩

theorem controllerStep_write_total (hs : Synced s) (hb : s.busy = true) (hop : s.op = .write) (hsrc : s.N ≤ s.src.length) :
    ∃ t, controllerStep s = .next t := by
  have hrd := write_not_reading hs.registers hop
  have hf := hs.frameFits
  cases hp : s.phase with
  | uninit | idle => simp [busy_iff, hp] at hb
  | rdSel | rdOp | rdAh | rdAl | rdData | rdDesel | rdHold => simp [hp] at hrd
  | check => rw [row_check hp]; exact checkRow_total s
  | split => rw [row_split hp]; exact splitRow_total s
  | pollTest => rw [row_pollTest hp]; exact pollTestRow_total s
  | resp => exact ⟨_, row_resp hp⟩
  | pollSel => exact ⟨_, row_pollSel hp⟩
  | pollOp => exact ⟨_, row_pollOp hp⟩
  | pollDummy => exact ⟨_, row_pollDummy hp⟩
  | pollHold => exact ⟨_, row_pollHold hp⟩
  | wrenSel => exact ⟨_, row_wrenSel hp⟩
  | wrenOp => exact ⟨_, row_wrenOp hp⟩
  | wrenHold => exact ⟨_, row_wrenHold hp⟩
  | wrSel => exact ⟨_, row_wrSel hp⟩
  | wrOp => exact ⟨_, row_wrOp hp⟩
  | wrAh => exact ⟨_, row_wrAh hp⟩
  | wrAl => exact ⟨_, row_wrAl hp⟩
  | wrHold => exact ⟨_, row_wrHold hp⟩
  | wrdiSel => exact ⟨_, row_wrdiSel hp⟩
  | wrdiOp => exact ⟨_, row_wrdiOp hp⟩
  | wrdiHold => exact ⟨_, row_wrdiHold hp⟩
  | wrData =>
    obtain ⟨hlt, b, hm⟩ := memReadSrc_of_wrData hs.registers hp hsrc
    exact ⟨_, row_wrData_of_src hp hlt hm⟩
  | pollDesel =>
    simp only [FrameFits, hp] at hf
    obtain ⟨rest, hf⟩ := hf
    rw [row_pollDesel hp]
    exact deselectStep_total (deselect_rdsr_or_read hs.kind hf (.inl rfl))
  | wrenDesel =>
    simp only [FrameFits, hp] at hf
    obtain ⟨-, hidle, -⟩ := hs.seen
    rw [row_wrenDesel hp]
    exact deselectStep_total (deselect_wren hs.kind hf (hidle (by rw [hp]; rfl)))
  | wrDesel =>
    rw [row_wrDesel hp]
    exact deselectStep_total (deselect_of_wrDesel hs hp hsrc)
  | wrdiDesel =>
    have hf := hs.frame (by rw [hp]; rfl)
    simp only [sentBytes, hp] at hf
    obtain ⟨d, hd⟩ := deselect_wrdi_total hs.kind hf
    rw [row_wrdiDesel hp]
    exact deselectStep_total hd

end Sys2Proof.Machine
end

section
/-! SUPPORT. A write in progress comes nearer its end: every step of the controller brings it on, but for those that poll a busy device;
there the device's `Complete` does. -/

namespace Sys2Proof.Machine

variable {s t : State}

/-- The phases of a poll. -/
def Phase.polling : Phase → Bool
  | .pollSel | .pollOp | .pollDummy | .pollDesel | .pollHold | .pollTest => true
  | _ => false

/-- The controller polls a busy device: its own steps lead nowhere. -/
def State.pollsBusy (s : State) : Bool := s.phase.polling && s.device.wip

/-- The move that brings a write on. -/
def neededMove (s : State) : Move := if s.pollsBusy then .complete else .controller

/-- The bytes of the request that are not behind the write, and one more before the range check. -/
def bytesLeft (s : State) : Nat :=
  match s.phase with
  | .check => s.N + 1
  | _ => s.A + s.N - s.cur

/-- The place of the phase in the way of one chunk. A poll that has already seen the device busy is followed by another. -/
def phaseRows (p : Phase) (seenBusy : Bool) : Nat :=
  match p with
  | .split => 40
  | .pollDesel => if seenBusy then 29 else 23
  | .pollHold => if seenBusy then 28 else 22
  | .pollTest => if seenBusy then 27 else 21
  | .pollSel => 26
  | .pollOp => 25
  | .pollDummy => 24
  | .wrenSel => 20
  | .wrenOp => 19
  | .wrenDesel => 18
  | .wrenHold => 17
  | .wrSel => 16
  | .wrOp => 15
  | .wrAh => 14
  | .wrAl => 13
  | .wrData => 12
  | .wrDesel => 11
  | .wrHold => 10
  | .wrdiSel => 9
  | .wrdiOp => 8
  | .wrdiDesel => 7
  | .wrdiHold => 6
  | _ => 0

/-- The same of a state; while the device is busy all phases of a poll are the same. -/
def rowsLeft (s : State) : Nat := if s.pollsBusy then 30 else phaseRows s.phase (statusBusy s.sr)

/-- How far a write is from its end: the bytes, the rows of the chunk, and in S_WR_DATA the bytes of the chunk. -/
def distance (s : State) : ℕ ×ₗ ℕ ×ₗ ℕ := toLex (bytesLeft s, toLex (rowsLeft s, s.n - s.i))

theorem distance_lt_of_bytesLeft (h : bytesLeft t < bytesLeft s) : distance t < distance s :=
  Prod.Lex.toLex_lt_toLex.2 (.inl h)

theorem distance_lt_of_rowsLeft (hb : bytesLeft t = bytesLeft s) (h : rowsLeft t < rowsLeft s) : distance t < distance s :=
  Prod.Lex.toLex_lt_toLex.2 (.inr ⟨hb, Prod.Lex.toLex_lt_toLex.2 (.inl h)⟩)

theorem distance_lt_of_count (hb : bytesLeft t = bytesLeft s) (hr : rowsLeft t = rowsLeft s) (h : t.n - t.i < s.n - s.i) :
    distance t < distance s :=
  Prod.Lex.toLex_lt_toLex.2 (.inr ⟨hb, Prod.Lex.toLex_lt_toLex.2 (.inr ⟨hr, h⟩)⟩)

theorem rowsLeft_of_pollsBusy (h : s.pollsBusy = true) : rowsLeft s = 30 := by simp [rowsLeft, h]

theorem rowsLeft_of_not_pollsBusy (h : s.pollsBusy = false) : rowsLeft s = phaseRows s.phase (statusBusy s.sr) := by
  simp [rowsLeft, h]

theorem phaseRows_lt_of_polling {p : Phase} (h : p.polling = true) (b : Bool) : phaseRows p b < 30 := by
  revert h
  cases p <;> cases b <;> decide

theorem pollsBusy_of_not_polling (h : s.phase.polling = false) : s.pollsBusy = false := by simp [State.pollsBusy, h]

theorem pollsBusy_of_not_wip (h : s.device.wip = false) : s.pollsBusy = false := by simp [State.pollsBusy, h]

/-! ### The device's move -/

/-- The end of a write cycle brings a write on if the controller was polling for it, and otherwise leaves it where it is. -/
theorem complete_nearer (hk : s.device.kind = .reference) :
    distance { s with device := s.device.complete } < distance s ∨
      s.pollsBusy = false ∧ ({ s with device := s.device.complete } : State).pollsBusy = false ∧
        distance { s with device := s.device.complete } = distance s := by
  have hidle : s.device.complete.wip = false := by
    cases hw : s.device.wip with
    | true => rw [complete_of_busy _ hk hw]
    | false => rw [complete_of_idle _ hw, hw]
  have ht := pollsBusy_of_not_wip (s := { s with device := s.device.complete }) hidle
  cases hs : s.pollsBusy with
  | true =>
    refine .inl (distance_lt_of_rowsLeft rfl ?_)
    rw [rowsLeft_of_pollsBusy hs, rowsLeft_of_not_pollsBusy ht]
    simp only [State.pollsBusy, Bool.and_eq_true] at hs
    exact phaseRows_lt_of_polling hs.1 _
  | false =>
    refine .inr ⟨rfl, ht, ?_⟩
    simp only [distance, rowsLeft_of_not_pollsBusy ht, rowsLeft_of_not_pollsBusy hs]
    rfl

/-! ### The controller's rows -/

/-- The row brings the write on, or it polls a busy device. -/
def Nearer (s t : State) : Prop :=
  distance t < distance s ∨ s.pollsBusy = true ∧ t.pollsBusy = true ∧ distance t = distance s

/-- A row outside a poll. -/
theorem nearer_of_phase {p : Phase} (hp : s.phase = p) (hs : p.polling = false) (ht : t.phase.polling = false)
    (hb : bytesLeft t = bytesLeft s) (h : ∀ b b', phaseRows t.phase b < phaseRows p b') : Nearer s t := by
  subst hp
  refine .inl (distance_lt_of_rowsLeft hb ?_)
  rw [rowsLeft_of_not_pollsBusy (pollsBusy_of_not_polling hs), rowsLeft_of_not_pollsBusy (pollsBusy_of_not_polling ht)]
  exact h _ _

/-- A row inside a poll. -/
theorem nearer_of_polling {p : Phase} (hp : s.phase = p) (hs : p.polling = true) (ht : t.phase.polling = true)
    (hw : t.device.wip = s.device.wip) (hb : bytesLeft t = bytesLeft s) (hc : t.n - t.i = s.n - s.i)
    (h : s.device.wip = false → phaseRows t.phase (statusBusy t.sr) < phaseRows p (statusBusy s.sr)) : Nearer s t := by
  subst hp
  cases hwip : s.device.wip with
  | true =>
    have hs' : s.pollsBusy = true := by simp [State.pollsBusy, hs, hwip]
    have ht' : t.pollsBusy = true := by simp [State.pollsBusy, ht, hw, hwip]
    exact .inr ⟨hs', ht', by simp [distance, hb, rowsLeft_of_pollsBusy hs', rowsLeft_of_pollsBusy ht', hc]⟩
  | false =>
    refine .inl (distance_lt_of_rowsLeft hb ?_)
    rw [rowsLeft_of_not_pollsBusy (pollsBusy_of_not_wip hwip),
      rowsLeft_of_not_pollsBusy (pollsBusy_of_not_wip (hw.trans hwip))]
    exact h hwip

/-- A chunk that begins still has its whole way before it, busy device or not. -/
theorem nearer_of_splitMore (hp : s.phase = .split) (n : Nat) : Nearer s { s with n := n, phase := .pollSel } := by
  refine .inl (distance_lt_of_rowsLeft (by simp [bytesLeft, hp]) ?_)
  have hs : s.pollsBusy = false := pollsBusy_of_not_polling (by rw [hp]; rfl)
  rw [rowsLeft_of_not_pollsBusy hs, hp, rowsLeft]
  split <;> simp [phaseRows]

theorem row_nearer (h : Row s t) (hs : Synced s) (hb : s.busy = true) (hop : s.op = .write)
    (hr : outOfRange s.config s.A s.N = false) (hresp : s.phase ≠ .resp) : Nearer s t := by
  have hi := hs.registers
  have hrd := write_not_reading hi hop
  have hf := hs.frameFits
  cases h with
  | waitUninit hp | refuseUninit hp | initUninit hp | waitIdle hp | refuseIdle hp | initIdle hp => simp [busy_iff, hp] at hb
  | acceptRead _ _ hp | acceptWrite _ _ hp => simp [busy_iff, hp] at hb
  | resp hp => exact absurd hp hresp
  | checkOut _ ho => simp [ho] at hr
  | checkRead _ _ hop' | pollReadNone _ _ hop' | pollRead _ _ hop' => simp [hop'] at hop
  | rdSel hp | rdOp hp | rdAh hp | rdAl hp | rdDataStuck hp | rdDataMore hp | rdDataLast hp => simp [hp] at hrd
  | rdDesel _ hp | rdHoldMore hp | rdHoldDone hp | rdHoldStuck hp => simp [hp] at hrd
  | checkWrite hp => exact .inl (distance_lt_of_bytesLeft (by simp [bytesLeft, hp]))
  | splitDone hp => exact nearer_of_phase hp rfl rfl (by simp [bytesLeft, hp]) (by simp [phaseRows])
  | splitMore hp => exact nearer_of_splitMore hp _
  | pollSel hp | pollOp hp =>
    exact nearer_of_polling hp rfl rfl (by simp) (by simp [bytesLeft, hp]) (by simp) (fun _ => by simp [phaseRows])
  | pollDummy hp =>
    simp only [FrameFits, hp] at hf
    have hseen := statusBusy_received hs.kind hf s.config.dummyByte
    exact nearer_of_polling hp rfl rfl (by simp) (by simp [bytesLeft, hp]) (by simp)
      (fun hw => by simp [phaseRows, hseen, hw])
  | pollDesel d hp hd =>
    simp only [FrameFits, hp] at hf
    obtain ⟨rest, hf⟩ := hf
    rw [deselect_rdsr_or_read hs.kind hf (.inl rfl)] at hd
    cases hd
    exact nearer_of_polling hp rfl rfl rfl (by simp [bytesLeft, hp]) rfl
      (fun _ => by cases hsr : statusBusy s.sr <;> simp [phaseRows])
  | pollHold hp =>
    exact nearer_of_polling hp rfl rfl (by simp) (by simp [bytesLeft, hp]) (by simp)
      (fun _ => by cases hsr : statusBusy s.sr <;> simp [phaseRows, hsr])
  | pollAgain hp hbusy =>
    exact nearer_of_polling hp rfl rfl rfl (by simp [bytesLeft, hp]) rfl (fun _ => by simp [phaseRows, hbusy])
  | pollWrite hp hidle =>
    obtain ⟨hheld, -, -⟩ := hs.seen
    have hw := hheld (by rw [hp]; rfl) hidle
    have hsb : s.pollsBusy = false := pollsBusy_of_not_wip hw
    refine .inl (distance_lt_of_rowsLeft (by simp [bytesLeft, hp]) ?_)
    rw [rowsLeft_of_not_pollsBusy hsb, rowsLeft_of_not_pollsBusy (pollsBusy_of_not_polling rfl), hp, hidle]
    simp [phaseRows]
  | wrenSel hp | wrenOp hp | wrenDesel _ hp | wrenHold hp | wrSel hp | wrOp hp | wrAh hp | wrAl hp =>
    exact nearer_of_phase hp rfl rfl (by simp [bytesLeft, hp]) (by simp [phaseRows])
  | wrDataLast _ hp | wrDesel _ hp | wrHold hp | wrdiSel hp | wrdiOp hp | wrdiDesel _ hp =>
    exact nearer_of_phase hp rfl rfl (by simp [bytesLeft, hp]) (by simp [phaseRows])
  | wrDataMore _ hp hlt =>
    have hsb : s.pollsBusy = false := pollsBusy_of_not_polling (by rw [hp]; rfl)
    refine .inl (distance_lt_of_count (by simp [bytesLeft, hp]) ?_ ?_)
    · rw [rowsLeft_of_not_pollsBusy hsb, rowsLeft_of_not_pollsBusy (pollsBusy_of_not_polling rfl), hp]
      rfl
    · simp only [exchange_n]
      omega
  | wrDataStuck hp hle =>
    simp only [PhaseInv, hp] at hi
    obtain ⟨-, -, hlt⟩ := hi
    omega
  | wrdiHold hp =>
    obtain ⟨-, hA, h1, -, hend⟩ := chunkInv_of_phase hi (by simp [hp])
    refine .inl (distance_lt_of_bytesLeft ?_)
    simp only [bytesLeft, hp, hold_A, hold_N]
    omega

/-! ### Both moves -/

/-- A move of the controller or the device from a write in progress: the write ends, or it comes nearer its end, or it stays where it
is and the move was not the one it needs. -/
theorem WriteJob.Running.move {j : WriteJob} (h : j.Running s) {m : Move} (hm : m.isQuiet = true) :
    ∃ u, takeMove m s = .next u ∧ (j.Done u ∨ j.Running u ∧
      (distance u < distance s ∨ distance u = distance s ∧ neededMove u = neededMove s ∧ m ≠ neededMove s)) := by
  cases m with
  | reset | present _ | hostStore _ _ => cases hm
  | complete =>
    refine ⟨_, rfl, .inr ⟨h.complete, ?_⟩⟩
    rcases complete_nearer h.synced.kind with hlt | ⟨hs, hu, heq⟩
    · exact .inl hlt
    · exact .inr ⟨heq, by simp [neededMove, hs, hu], by simp [neededMove, hs]⟩
  | controller =>
    obtain ⟨u, hu⟩ := controllerStep_write_total h.synced h.serving.busy h.serving.op h.buffer_fits
    have hrow := controllerStep_row hu
    refine ⟨u, hu, ?_⟩
    rcases h.row hrow with hrun | hdone
    · refine .inr ⟨hrun, ?_⟩
      have hresp : s.phase ≠ .resp := by
        intro hp
        rw [row_resp hp] at hu
        obtain rfl := Host.Outcome.next.inj hu
        have hb := hrun.serving.busy
        simp [busy_iff] at hb
      rcases row_nearer hrow h.synced h.serving.busy h.serving.op h.outOfRange hresp with hlt | ⟨hs, ht, heq⟩
      · exact .inl hlt
      · exact .inr ⟨heq, by simp [neededMove, hs, ht], by simp [neededMove, hs]⟩
    · exact .inl hdone

end Sys2Proof.Machine
end

section
/-! SUPPORT. Endless executions: under fairness a stage that is only left for a better one is left. With that a host write against the
reference device ends (20_memory R72, 60_exceptions R226). -/

namespace Sys2Proof.Machine

variable {moves : Nat → Move} {s t : State} {P Q : State → Prop}

/-! ### Stages -/

/-- The execution is in `P` from the `k`-th move on until it comes to `Q`. -/
def Reaches (moves : Nat → Move) (s : State) (P Q : State → Prop) (k : Nat) : Prop :=
  ∃ n u, k ≤ n ∧ playMoves moves s n = .next u ∧ Q u ∧
    ∀ i, k ≤ i → i < n → ∃ w, playMoves moves s i = .next w ∧ P w

theorem reaches_now {k : Nat} (hk : playMoves moves s k = .next t) (hQ : Q t) : Reaches moves s P Q k :=
  ⟨k, t, le_rfl, hk, hQ, fun _ _ _ => by omega⟩

theorem reaches_of_succ {k : Nat} (hk : playMoves moves s k = .next t) (hP : P t) (h : Reaches moves s P Q (k + 1)) :
    Reaches moves s P Q k := by
  obtain ⟨n, u, hn, hu, hQ, hbetween⟩ := h
  refine ⟨n, u, by omega, hu, hQ, fun i h1 h2 => ?_⟩
  rcases h1.eq_or_lt with rfl | hlt
  · exact ⟨t, hk, hP⟩
  · exact hbetween i hlt h2

/-- From a stage `P` that every move either ends, in `Q`, or keeps with a measure that never grows and that the needed move brings
down, a fair execution reaches `Q`. -/
theorem playMoves_reaches {α : Type} [Preorder α] [WellFoundedLT α] (measure : State → α) (needed : State → Move)
    (hmove : ∀ t m, m.isQuiet = true → P t → ∃ u, takeMove m t = .next u ∧ (Q u ∨ P u ∧
      (measure u < measure t ∨ measure u = measure t ∧ needed u = needed t ∧ m ≠ needed t)))
    (hquiet : ∀ k, (moves k).isQuiet = true)
    (hfair : ∀ k t, playMoves moves s k = .next t → P t → ∃ i, k ≤ i ∧ moves i = needed t)
    {k : Nat} (hk : playMoves moves s k = .next t) (hP : P t) : Reaches moves s P Q k := by
  induction hv : measure t using WellFoundedLT.induction generalizing k t with
  | _ v ih =>
    obtain ⟨i, hki, hi⟩ := hfair k t hk hP
    induction hd : i - k using Nat.strong_induction_on generalizing k t with
    | _ d ihd =>
      obtain ⟨u, hu, hres⟩ := hmove t (moves k) (hquiet k) hP
      have hnext : playMoves moves s (k + 1) = .next u := by rw [playMoves_succ hk, hu]
      refine reaches_of_succ hk hP ?_
      rcases hres with hQ | ⟨hP', hlt | ⟨heq, hneed, hne⟩⟩
      · exact reaches_now hnext hQ
      · exact ih _ (hv ▸ hlt) hnext hP' rfl
      · have hki' : k ≠ i := by
          rintro rfl
          exact hne hi
        exact ihd (i - (k + 1)) (by omega) hnext hP' (heq.trans hv) (by omega) (hi.trans hneed.symm) rfl

/-! ### A write ends -/

variable {j : WriteJob}

/-- The write that a state with a write request on its port is about to begin. -/
def WriteJob.start (s : State) (r : Request) (rest : List Request) (hop : r.op = 2#2)
    (ha : r.address < 2 ^ s.config.operandWidth) (hn : r.count < 2 ^ s.config.operandWidth)
    (hr : outOfRange s.config r.address r.count = false) (hb : r.count ≤ r.buffer.length) : WriteJob :=
  ⟨s.config, r, rest, s.device.settled, s.trace, hop, ha, hn, hr, hb⟩

theorem WriteJob.Waiting.move (h : j.Waiting s) {m : Move} (hm : m.isQuiet = true) :
    ∃ u, takeMove m s = .next u ∧ (j.Running u ∨ j.Waiting u ∧ m ≠ .controller) := by
  cases m with
  | reset | present _ | hostStore _ _ => cases hm
  | complete => exact ⟨_, rfl, .inr ⟨h.complete, nofun⟩⟩
  | controller =>
    obtain ⟨u, hu, hrun⟩ := h.accept
    exact ⟨u, hu, .inl hrun⟩

theorem WriteJob.Waiting.reaches_running (hquiet : ∀ k, (moves k).isQuiet = true) (hctl : ControllerKeepsMoving moves) {k : Nat}
    (hk : playMoves moves s k = .next t) (h : j.Waiting t) : Reaches moves s j.Waiting j.Running k := by
  refine playMoves_reaches (fun _ => 0) (fun _ => .controller) (fun t m hm ht => ?_) hquiet (fun k _ _ _ => hctl k) hk h
  obtain ⟨u, hu, hrun | ⟨hwait, hne⟩⟩ := ht.move hm
  · exact ⟨u, hu, .inl hrun⟩
  · exact ⟨u, hu, .inr ⟨hwait, .inr ⟨rfl, rfl, hne⟩⟩⟩

theorem WriteJob.Running.reaches_done (hquiet : ∀ k, (moves k).isQuiet = true) (hctl : ControllerKeepsMoving moves)
    (hdev : DeviceEventuallyIdle moves s) {k : Nat} (hk : playMoves moves s k = .next t) (h : j.Running t) :
    Reaches moves s j.Running j.Done k := by
  refine playMoves_reaches distance neededMove (fun t m hm ht => ht.move hm) hquiet (fun k t hk ht => ?_) hk h
  unfold neededMove
  split
  · rename_i hb
    simp only [State.pollsBusy, Bool.and_eq_true] at hb
    exact hdev k t hk ht.synced.kind hb.2
  · exact hctl k

theorem WriteJob.Done.settled_inside (h : j.Done s) {k : Nat} (hk : k < j.request.count) :
    s.device.complete.mem.read (j.request.address + k) = j.request.buffer.getD k 0x00#8 := by
  have hs := congrFun h.settled (j.request.address + k)
  rw [overwritten, if_pos (by omega), Nat.add_sub_cancel_left] at hs
  exact hs

theorem WriteJob.Done.settled_outside (h : j.Done s) {a : Nat}
    (ha : a < j.request.address ∨ j.request.address + j.request.count ≤ a) : s.device.complete.mem.read a = j.old a := by
  have hs := congrFun h.settled a
  rw [overwritten, if_neg (by omega)] at hs
  exact hs

/-- Settles O60: the request is accepted, since the controller keeps moving, and every stage after that comes to its end, since the
controller keeps moving and a write cycle that a poll waits for ends. -/
theorem writeEndsWithLiveDevice : Obligations.WriteEndsWithLiveDevice := by
  intro s r rest moves hp hreq hop ha hn hr hb hk hwf hquiet hctl hdev
  have hstart : (WriteJob.start s r rest hop ha hn hr hb).Waiting { s with schedule := [] } :=
    ⟨hp, rfl, hreq, hk, hwf, rfl, rfl⟩
  obtain ⟨k, t, -, ht, hrun, -⟩ := hstart.reaches_running (s := s) hquiet hctl (k := 0) rfl
  obtain ⟨n, u, -, hu, hdone, -⟩ := hrun.reaches_done hquiet hctl hdev ht
  obtain ⟨tr, htr, hset⟩ := hdone.trace
  exact ⟨n, u, tr, hu, hdone.phase, hdone.rstat, hdone.requests, htr, hset, fun _ => hdone.settled_inside,
    fun _ => hdone.settled_outside⟩

end Sys2Proof.Machine
end

section
/-! SUPPORT. The schedule is read by nothing but the choice of the agent that moves: a run of a scheduled state is the execution of the
moves that its schedule lists. With that a finite schedule under which a host write ends. -/

namespace Sys2Proof.Machine

variable {s t : State} {q : List Move}

/-! ### A state with another schedule -/

/-- The state with another schedule. -/
def State.withSchedule (s : State) (q : List Move) : State := { s with schedule := q }

theorem byteDrawn_withSchedule : (s.withSchedule q).byteDrawn = s.byteDrawn.withSchedule q := by
  cases hr : s.replies <;> simp [State.byteDrawn, State.withSchedule, hr]

theorem delayDrawn_withSchedule : (s.withSchedule q).delayDrawn = s.delayDrawn.withSchedule q := by
  cases hd : s.delays <;> simp [State.delayDrawn, State.withSchedule, hd]

theorem exchangeDrawn_withSchedule (o : Byte) : exchangeDrawn (s.withSchedule q) o = (exchangeDrawn s o).withSchedule q := by
  have hw : (s.withSchedule q).device.reply (s.withSchedule q).config o = s.device.reply s.config o := rfl
  cases hv : s.device.reply s.config o <;> simp only [exchangeDrawn, hw, hv, byteDrawn_withSchedule]

theorem exchange_withSchedule (o : Byte) : exchange (s.withSchedule q) o = (exchange s o).withSchedule q := by
  rw [exchange, exchangeDrawn_withSchedule]
  rfl

theorem hold_withSchedule : hold (s.withSchedule q) = (hold s).withSchedule q := by
  rw [hold, delayDrawn_withSchedule]
  rfl

/-! ### No row reads it -/

theorem row_send_withSchedule {o : Byte} {p : Phase} (h : Row (s.withSchedule q) ((exchange (s.withSchedule q) o).goto p)) :
    Row (s.withSchedule q) (((exchange s o).goto p).withSchedule q) := by
  rwa [exchange_withSchedule] at h

theorem row_hold_withSchedule {p : Phase} (h : Row (s.withSchedule q) ((hold (s.withSchedule q)).goto p)) :
    Row (s.withSchedule q) (((hold s).goto p).withSchedule q) := by
  rwa [hold_withSchedule] at h

theorem row_withSchedule (h : Row s t) : Row (s.withSchedule q) (t.withSchedule q) := by
  cases h with
  | waitUninit hp => exact .waitUninit hp
  | waitIdle hp => exact .waitIdle hp
  | refuseUninit hp => exact .refuseUninit hp
  | refuseIdle hp => exact .refuseIdle hp
  | initUninit hp => exact .initUninit hp
  | initIdle hp => exact .initIdle hp
  | acceptRead r rest hp hr ha hn => exact .acceptRead r rest hp hr ha hn
  | acceptWrite r rest hp hr ha hn => exact .acceptWrite r rest hp hr ha hn
  | checkOut hp ho => exact .checkOut hp ho
  | checkRead hp ho hop => exact .checkRead hp ho hop
  | checkWrite hp ho hop => exact .checkWrite hp ho hop
  | splitDone hp hc => exact .splitDone hp hc
  | splitMore hp hc => exact .splitMore hp hc
  | pollSel hp => exact .pollSel hp
  | pollOp hp => exact row_send_withSchedule (.pollOp hp)
  | pollDummy hp =>
    have hrow := Row.pollDummy (s := s.withSchedule q) hp
    rwa [exchange_withSchedule] at hrow
  | pollDesel d hp hd => exact .pollDesel d hp hd
  | pollHold hp => exact row_hold_withSchedule (.pollHold hp)
  | pollAgain hp hb => exact .pollAgain hp hb
  | pollWrite hp hb hop => exact .pollWrite hp hb hop
  | pollReadNone hp hb hop hN => exact .pollReadNone hp hb hop hN
  | pollRead hp hb hop hN => exact .pollRead hp hb hop hN
  | rdSel hp => exact .rdSel hp
  | rdOp hp => exact row_send_withSchedule (.rdOp hp)
  | rdAh hp => exact row_send_withSchedule (.rdAh hp)
  | rdAl hp => exact row_send_withSchedule (.rdAl hp)
  | rdDataStuck hp hm => exact .rdDataStuck hp hm
  | rdDataMore hp hm hi =>
    have hrow := Row.rdDataMore (s := s.withSchedule q) hp hm hi
    rwa [exchange_withSchedule] at hrow
  | rdDataLast hp hm hi =>
    have hrow := Row.rdDataLast (s := s.withSchedule q) hp hm hi
    rwa [exchange_withSchedule] at hrow
  | rdDesel d hp hd => exact .rdDesel d hp hd
  | rdHoldMore hp hi => exact row_hold_withSchedule (.rdHoldMore hp hi)
  | rdHoldDone hp hi => exact row_hold_withSchedule (.rdHoldDone hp hi)
  | rdHoldStuck hp hi => exact .rdHoldStuck hp hi
  | wrenSel hp => exact .wrenSel hp
  | wrenOp hp => exact row_send_withSchedule (.wrenOp hp)
  | wrenDesel d hp hd => exact .wrenDesel d hp hd
  | wrenHold hp => exact row_hold_withSchedule (.wrenHold hp)
  | wrSel hp => exact .wrSel hp
  | wrOp hp => exact row_send_withSchedule (.wrOp hp)
  | wrAh hp => exact row_send_withSchedule (.wrAh hp)
  | wrAl hp =>
    have hrow := Row.wrAl (s := s.withSchedule q) hp
    rwa [exchange_withSchedule] at hrow
  | wrDataStuck hp hi => exact .wrDataStuck hp hi
  | wrDataMore b hp hi hb =>
    have hrow := Row.wrDataMore (s := s.withSchedule q) b hp hi hb
    rwa [exchange_withSchedule] at hrow
  | wrDataLast b hp hi hb =>
    have hrow := Row.wrDataLast (s := s.withSchedule q) b hp hi hb
    rwa [exchange_withSchedule] at hrow
  | wrDesel d hp hd => exact .wrDesel d hp hd
  | wrHold hp => exact row_hold_withSchedule (.wrHold hp)
  | wrdiSel hp => exact .wrdiSel hp
  | wrdiOp hp => exact row_send_withSchedule (.wrdiOp hp)
  | wrdiDesel d hp hd => exact .wrdiDesel d hp hd
  | wrdiHold hp =>
    have hrow := Row.wrdiHold (s := s.withSchedule q) hp
    rwa [hold_withSchedule] at hrow
  | resp hp => exact .resp hp

/-- At the request port no instruction reads it either. -/
theorem exec_port_withSchedule {i : Instr} (hp : s.phase = .uninit ∨ s.phase = .idle) (hi : decodePort s = .run i)
    (h : exec i s = .next t) : exec i (s.withSchedule q) = .next (t.withSchedule q) := by
  have hu : (s.withSchedule q).phase = s.phase := rfl
  rcases decodePort_run_cases hi with rfl | ⟨a, k, b, rfl⟩ | ⟨a, k, b, rfl⟩
  · rcases hp with hp | hp <;> simp only [exec, execInit, hu, hp] at h ⊢ <;> cases h <;> rfl
  · rcases hp with hp | hp <;> simp only [exec, execHostRead, hu, hp] at h ⊢ <;> cases h <;> rfl
  · rcases hp with hp | hp <;> simp only [exec, execHostWrite, hu, hp] at h ⊢ <;> cases h <;> rfl

theorem controllerStep_withSchedule (h : controllerStep s = .next t) :
    controllerStep (s.withSchedule q) = .next (t.withSchedule q) := by
  by_cases hb : s.busy = true
  · exact controllerStep_of_row (row_withSchedule (controllerStep_row h)) hb
  · have hp : s.phase = .uninit ∨ s.phase = .idle := by simpa [State.busy, Classical.or_iff_not_imp_left] using hb
    have hu : decodePort (s.withSchedule q) = decodePort s := rfl
    unfold controllerStep at h ⊢
    rw [fetch_port hp] at h
    rw [fetch_port (s := s.withSchedule q) hp, hu]
    cases hf : decodePort s <;> rw [hf] at h
    case run i => exact exec_port_withSchedule hp hf h
    case refuse => cases h; rfl
    case nothing => cases h; rfl

theorem reset_withSchedule : reset (s.withSchedule q) = (reset s).withSchedule q := by
  have hb : (s.withSchedule q).busy = s.busy := rfl
  unfold reset
  rw [hb]
  split <;> rfl

theorem takeMove_withSchedule {m : Move} (h : takeMove m s = .next t) :
    takeMove m (s.withSchedule q) = .next (t.withSchedule q) := by
  cases m with
  | controller => exact controllerStep_withSchedule h
  | complete | present _ | hostStore _ _ => cases h; rfl
  | reset =>
    cases h
    exact congrArg Host.Outcome.next reset_withSchedule

/-! ### Runs and executions -/

theorem run_succ {k : Nat} (h : run k s = .next t) : run (k + 1) s = step t := by
  induction k generalizing s with
  | zero =>
    cases h
    simp only [run]
    cases step t <;> rfl
  | succ k ih =>
    rw [run] at h ⊢
    cases hs : step s <;> rw [hs] at h
    case next u => exact ih h
    all_goals cases h

/-- One step: the first move of the schedule, or the controller's when nothing is scheduled (log 5). -/
theorem step_eq_takeMove (s : State) : step s = takeMove (s.schedule.getD 0 .controller) (s.withSchedule s.schedule.tail) := by
  unfold step scheduledStep
  split
  · rename_i hs
    rw [hs]
    cases s
    cases hs
    rfl
  · rename_i m rest hs
    rw [hs]
    rfl

/-- The moves that a schedule lists, the controller's after them. -/
def scheduledMoves (q : List Move) (k : Nat) : Move := q.getD k .controller

theorem playMoves_congr {moves moves' : Nat → Move} {k : Nat} (h : ∀ i, i < k → moves i = moves' i) :
    playMoves moves s k = playMoves moves' s k := by
  induction k with
  | zero => rfl
  | succ k ih => rw [playMoves, playMoves, ih fun i hi => h i (by omega), h k (by omega)]

/-- A run of a state with a schedule makes the moves that the schedule lists. -/
theorem run_of_playMoves {k : Nat} (h : playMoves (scheduledMoves q) s k = .next t) :
    run k (s.withSchedule q) = .next (t.withSchedule (q.drop k)) := by
  induction k generalizing t with
  | zero =>
    cases h
    rfl
  | succ k ih =>
    cases hk : playMoves (scheduledMoves q) s k with
    | next u =>
      rw [playMoves_succ hk] at h
      have hm : (q.drop k).getD 0 Move.controller = scheduledMoves q k := by simp [scheduledMoves]
      rw [run_succ (ih hk), step_eq_takeMove]
      simp only [State.withSchedule, hm, List.tail_drop]
      exact takeMove_withSchedule h
    | fault f => simp [playMoves, hk] at h
    | refused e => simp [playMoves, hk] at h

theorem takeMove_schedule {m : Move} (hm : m.isQuiet = true) (h : takeMove m s = .next t) : t.schedule = s.schedule := by
  cases m with
  | reset | present _ | hostStore _ _ => cases hm
  | complete => cases h; rfl
  | controller => exact row_schedule (controllerStep_row h)

/-- What every quiet move keeps holds all along a run that nobody else disturbs. -/
theorem run_invariant {I : State → Prop} (hmove : ∀ u v m, m.isQuiet = true → I u → takeMove m u = .next v → I v) {k : Nat}
    (hq : Undisturbed s) (hI : I (s.withSchedule [])) (h : run k s = .next t) : I (t.withSchedule []) := by
  induction k generalizing s with
  | zero =>
    cases h
    exact hI
  | succ k ih =>
    rw [run] at h
    cases hs : step s <;> rw [hs] at h
    case next u =>
      rw [step_eq_takeMove] at hs
      have hm : (s.schedule.getD 0 .controller).isQuiet = true := by
        cases hsched : s.schedule with
        | nil => rfl
        | cons m rest => exact hq m (by simp [hsched])
      have hu : u.schedule = s.schedule.tail := takeMove_schedule hm hs
      have hmv : takeMove (s.schedule.getD 0 .controller) (s.withSchedule []) = .next (u.withSchedule []) :=
        takeMove_withSchedule (s := s.withSchedule s.schedule.tail) (q := []) hs
      refine ih (fun m hmem => hq m ?_) (hmove _ _ _ hm hI hmv) h
      rw [hu] at hmem
      exact List.mem_of_mem_tail hmem
    all_goals cases h

/-! ### A schedule under which a write ends -/

/-- The controller and the device in turn, the controller first. -/
def alternating (k : Nat) : Move := if k % 2 = 0 then .controller else .complete

theorem alternating_cases (k : Nat) : alternating k = .controller ∨ alternating k = .complete := by
  unfold alternating
  split
  · exact .inl rfl
  · exact .inr rfl

theorem alternating_isQuiet (k : Nat) : (alternating k).isQuiet = true := by
  rcases alternating_cases k with h | h <;> rw [h] <;> rfl

theorem alternating_keepsMoving : ControllerKeepsMoving alternating := fun k => ⟨2 * k, by omega, by simp [alternating]⟩

theorem alternating_eventuallyIdle : DeviceEventuallyIdle alternating s := by
  intro k _ _ _ _
  refine ⟨2 * k + 1, by omega, ?_⟩
  simp [alternating]

/-- A waiting write ends in the alternating execution, the controller busy from the first move until then. -/
theorem WriteJob.Waiting.ends_alternating {j : WriteJob} (h : j.Waiting (s.withSchedule [])) :
    ∃ n t, 1 < n ∧ playMoves alternating s n = .next t ∧ j.Done t ∧
      ∀ k, 1 ≤ k → k < n → ∃ u, playMoves alternating s k = .next u ∧ u.busy = true := by
  obtain ⟨u, hu, hrun⟩ := h.accept
  have hfirst : playMoves alternating s 1 = .next u := by
    rw [playMoves_succ (s' := s.withSchedule []) rfl]
    exact hu
  obtain ⟨n, t, hn, ht, hdone, hbetween⟩ :=
    hrun.reaches_done alternating_isQuiet alternating_keepsMoving alternating_eventuallyIdle hfirst
  refine ⟨n, t, lt_of_le_of_ne hn ?_, ht, hdone, fun k h1 h2 => ?_⟩
  · rintro rfl
    obtain rfl : u = t := Host.Outcome.next.inj (hfirst.symm.trans ht)
    exact (busy_iff.1 hrun.serving.busy).2 hdone.phase
  · obtain ⟨w, hw, hrun'⟩ := hbetween k h1 h2
    exact ⟨w, hw, hrun'.serving.busy⟩

/-- Settles O58: the alternating execution, as far as the end of the write, written down as a schedule. -/
theorem writeEndsUnderSomeSchedule : Obligations.WriteEndsUnderSomeSchedule := by
  intro s r rest hp hreq hop ha hn hr hb hk hwf
  have hstart : (WriteJob.start s r rest hop ha hn hr hb).Waiting (s.withSchedule []) := ⟨hp, rfl, hreq, hk, hwf, rfl, rfl⟩
  obtain ⟨n, t, hn1, ht, hdone, hbusy⟩ := hstart.ends_alternating
  have hmoves : ∀ k, k ≤ n → playMoves (scheduledMoves ((List.range n).map alternating)) s k = playMoves alternating s k :=
    fun k hkn => playMoves_congr fun i hi => by simp [scheduledMoves, show i < n by omega]
  have hend := run_of_playMoves ((hmoves n le_rfl).trans ht)
  rw [List.drop_eq_nil_of_le (by simp)] at hend
  refine ⟨(List.range n).map alternating, n, t.withSchedule [], fun m hm => ?_, ⟨hn1, hend, hdone.phase, fun k h1 h2 => ?_⟩,
    hdone.rstat, rfl, hdone.requests, fun _ => hdone.settled_inside, fun hw _ a hout => ?_⟩
  · obtain ⟨i, -, rfl⟩ := List.mem_map.1 hm
    exact alternating_cases i
  · obtain ⟨u, hu, hub⟩ := hbusy k h1 h2
    exact ⟨_, run_of_playMoves ((hmoves k h2.le).trans hu), hub⟩
  · exact (hdone.settled_outside hout).trans (congrFun (settled_of_idle hw) a)

end Sys2Proof.Machine
end

section
/-! SUPPORT. A host read against the reference device: every byte it delivers is the one that the array holds once the write cycle has
ended (20_memory R69), under either framing. With a write before it, the round trip (20_memory R75). -/

namespace Sys2Proof.Machine

variable {s t : State}

/-! ### What a read has delivered -/

/-- How many bytes of the request are in the destination buffer. -/
def delivered (s : State) : Nat :=
  match s.phase with
  | .rdSel | .rdOp | .rdAh | .rdAl | .rdData | .rdDesel | .rdHold => s.i
  | .resp => s.N
  | _ => 0

/-- The byte that S_RD_DATA receives is the array's at `A + i`: the poll saw the device idle, so nothing is pending. -/
theorem received_of_rdData (hs : Synced s) (hp : s.phase = .rdData) :
    received s s.config.dummyByte = s.device.settled (s.A + s.i) := by
  have hi := hs.registers
  simp only [PhaseInv, hp] at hi
  obtain ⟨⟨-, hmax, -⟩, -, hlt⟩ := hi
  obtain ⟨-, hidle, -⟩ := hs.seen
  have hw := hidle (by rw [hp]; rfl)
  have hf := hs.frame (by rw [hp]; rfl)
  simp only [sentBytes, hp, readFrame] at hf
  have hsum := readAddress_add_positionsDone s
  have hle := maxAddress_le s.config
  have hfield : (joinAddr (hi8 (addressField (readAddress s))) (lo8 (addressField (readAddress s)))).toNat = readAddress s := by
    rw [joinAddr_hi8_lo8]
    exact addressField_toNat (by omega)
  have hreply := reply_read (c := s.config) hs.kind hf hw (by rw [hfield, List.length_replicate]; omega) s.config.dummyByte
  rw [received_of_stored hreply, hfield, List.length_replicate, hsum, settled_of_idle hw]

/-- A controller busy with a read is in no phase of the splitter or of WRITE. -/
theorem read_not_writing (hi : PhaseInv s) (hop : s.op = .read) : s.phase ≠ .split ∧ s.phase ≠ .wrDesel := by
  constructor <;> intro hp <;> simp [PhaseInv, hp, ChunkInv, hop] at hi

/-- Outside S_RD_DATA a row delivers nothing and leaves the buffer alone. -/
theorem row_delivered (h : Row s t) (hb : s.busy = true) (hop : s.op = .read) (hr : outOfRange s.config s.A s.N = false)
    (hi : PhaseInv s) (hresp : s.phase ≠ .resp) (hd : s.phase ≠ .rdData) : t.dst = s.dst ∧ delivered t = delivered s := by
  cases h with
  | waitUninit hp | refuseUninit hp | initUninit hp | waitIdle hp | refuseIdle hp | initIdle hp => simp [busy_iff, hp] at hb
  | acceptRead _ _ hp | acceptWrite _ _ hp => simp [busy_iff, hp] at hb
  | resp hp => exact absurd hp hresp
  | checkOut _ ho => simp [ho] at hr
  | splitDone hp | splitMore hp => exact absurd hp (read_not_writing hi hop).1
  | rdDataStuck hp | rdDataMore hp | rdDataLast hp => exact absurd hp hd
  | rdHoldStuck | wrDataStuck => exact ⟨rfl, rfl⟩
  | rdHoldDone hp hn => simp [delivered, hp, hn]
  | pollReadNone hp _ _ hN => simp [delivered, hp, hN]
  | checkRead hp | checkWrite hp | pollSel hp | pollOp hp | pollDummy hp | pollDesel _ hp | pollHold hp =>
    simp [delivered, hp]
  | pollAgain hp | pollWrite hp | pollRead hp | rdSel hp | rdOp hp | rdAh hp | rdAl hp | rdDesel _ hp | rdHoldMore hp =>
    simp [delivered, hp]
  | wrenSel hp | wrenOp hp | wrenDesel _ hp | wrenHold hp | wrSel hp | wrOp hp | wrAh hp | wrAl hp => simp [delivered, hp]
  | wrDataMore _ hp | wrDataLast _ hp | wrDesel _ hp | wrHold hp | wrdiSel hp | wrdiOp hp | wrdiDesel _ hp | wrdiHold hp =>
    simp [delivered, hp]

/-- In S_RD_DATA a row delivers the byte received. -/
theorem row_rdData_delivers (h : Row s t) (hp : s.phase = .rdData) (hi : PhaseInv s) :
    s.i < s.dst.length ∧ t.dst = s.dst.set s.i (received s s.config.dummyByte) ∧ delivered t = s.i + 1 := by
  have hstep := controllerStep_of_row h (by rw [busy_iff, hp]; decide)
  rw [row_rdData hp] at hstep
  rcases readDataRow_cases hstep with ⟨hm, -⟩ | ⟨-, hl, rfl⟩
  · simp only [PhaseInv, hp] at hi
    obtain ⟨-, -, hlt⟩ := hi
    unfold pendingPositions at hm
    split at hm <;> omega
  · refine ⟨hl, rfl, ?_⟩
    unfold delivered
    by_cases h1 : 1 < pendingPositions s <;> simp [h1]

/-! ### A read of known bytes -/

/-- A read request in range, and the bytes that the array comes to hold there. -/
structure ReadJob where
  config : Config
  request : Request
  rest : List Request
  data : List Byte
  op : request.op = 1#2
  address_fits : request.address < 2 ^ config.operandWidth
  count_fits : request.count < 2 ^ config.operandWidth
  inRange : outOfRange config request.address request.count = false
  data_length : data.length = request.count
  buffer_length : request.buffer.length = request.count

variable {j : ReadJob}

/-- The array comes to hold the bytes. -/
def ReadJob.Stored (j : ReadJob) (s : State) : Prop :=
  ∀ k, k < j.request.count → j.data[k]? = some (s.device.settled (j.request.address + k))

/-- The request stands on the port of an idle controller. -/
structure ReadJob.Waiting (j : ReadJob) (s : State) : Prop where
  phase : s.phase = .idle
  config : s.config = j.config
  requests : s.requests = j.request :: j.rest
  kind : s.device.kind = .reference
  wf : s.device.mem.wf = true
  stored : j.Stored s

/-- The controller is busy with the request, and what it has delivered are the bytes. -/
structure ReadJob.Running (j : ReadJob) (s : State) : Prop where
  serving : Serving j.config .read j.request j.rest s
  synced : Synced s
  stored : j.Stored s
  dst_length : s.dst.length = j.request.count
  dst : s.dst.take (delivered s) = j.data.take (delivered s)

/-- The read has ended with `Ok`, the bytes in the destination buffer. -/
structure ReadJob.Done (j : ReadJob) (s : State) : Prop where
  phase : s.phase = .idle
  rstat : s.rstat = .ok
  requests : s.requests = j.rest
  dst : s.dst = j.data

theorem controllerStep_acceptRead {r : Request} {rest : List Request} (hp : s.phase = .idle) (hr : s.requests = r :: rest)
    (hop : r.op = 1#2) (ha : r.address < 2 ^ s.config.operandWidth) (hk : r.count < 2 ^ s.config.operandWidth) :
    controllerStep s = .next { acceptRequest .read r.address r.count s with dst := r.buffer } := by
  have hd : decode s.config (.request r) = .ok (.hostRead r.address r.count r.buffer) := by
    simp [decode, decodeRequest, hop, opInit, opRead, Config.operandFits, ha, hk]
  rw [controllerStep_of_request (.inr hp) hr hd]
  simp [exec, execHostRead, hp]

theorem ReadJob.Waiting.accept (h : j.Waiting s) : ∃ t, controllerStep s = .next t ∧ j.Running t := by
  have hstep := controllerStep_acceptRead h.phase h.requests j.op (by rw [h.config]; exact j.address_fits)
    (by rw [h.config]; exact j.count_fits)
  refine ⟨_, hstep, ⟨rfl, h.config, rfl, rfl, rfl, by simp [h.requests]⟩, ?_, h.stored, j.buffer_length, rfl⟩
  exact row_keeps_synced (controllerStep_row hstep) (synced_of_idle h.phase h.kind h.wf)

theorem ReadJob.Stored.of_settled (h : j.Stored s) (hs : t.device.settled = s.device.settled) : j.Stored t := by
  intro k hk
  rw [hs]
  exact h k hk

theorem ReadJob.Waiting.complete (h : j.Waiting s) : j.Waiting { s with device := s.device.complete } where
  phase := h.phase
  config := h.config
  requests := h.requests
  kind := (complete_kind _).trans h.kind
  wf := complete_wf h.wf
  stored := h.stored.of_settled (settled_complete _)

theorem ReadJob.Running.complete (h : j.Running s) : j.Running { s with device := s.device.complete } where
  serving := complete_keeps_serving h.serving
  synced := complete_keeps_synced h.synced
  stored := h.stored.of_settled (settled_complete _)
  dst_length := h.dst_length
  dst := h.dst

theorem ReadJob.Running.outOfRange (h : j.Running s) : outOfRange s.config s.A s.N = false := by
  rw [h.serving.config, h.serving.address, h.serving.count]
  exact j.inRange

theorem ReadJob.Running.respond (h : j.Running s) (hp : s.phase = .resp) : j.Done (respond s) where
  phase := rfl
  rstat := (respond_rstat s).trans (rstat_ok_of_resp hp h.outOfRange h.synced.registers)
  requests := h.serving.requests
  dst := by
    have hdst := h.dst
    simp only [delivered, hp, h.serving.count] at hdst
    rwa [List.take_of_length_le h.dst_length.le, List.take_of_length_le j.data_length.le] at hdst

/-- The buffer after a row: in S_RD_DATA one more of the bytes, elsewhere as it was. -/
theorem ReadJob.Running.row_dst (h : j.Running s) (hrow : Row s t) (hresp : s.phase ≠ .resp) :
    t.dst.length = s.dst.length ∧ t.dst.take (delivered t) = j.data.take (delivered t) := by
  have hdst := h.dst
  by_cases hp : s.phase = .rdData
  · have hi := h.synced.registers
    obtain ⟨hlt, ht, hdel⟩ := row_rdData_delivers hrow hp hi
    rw [h.dst_length] at hlt
    have hbyte := h.stored s.i hlt
    rw [← h.serving.address, ← received_of_rdData h.synced hp] at hbyte
    simp only [delivered, hp] at hdst
    rw [hdel, ht]
    refine ⟨List.length_set, ?_⟩
    rw [List.take_add_one, List.take_add_one, List.take_set_of_le le_rfl, hdst, hbyte,
      List.getElem?_set_self (by rw [h.dst_length]; exact hlt)]
  · obtain ⟨ht, hdel⟩ := row_delivered hrow h.serving.busy h.serving.op h.outOfRange h.synced.registers hresp hp
    rw [ht, hdel]
    exact ⟨rfl, hdst⟩

theorem ReadJob.Running.row (h : j.Running s) (hrow : Row s t) : j.Running t ∨ j.Done t := by
  rcases row_keeps_serving hrow h.serving with hserving | ⟨hp, rfl⟩
  · refine .inl ?_
    have hresp : s.phase ≠ .resp := by
      intro hp
      have hstep := controllerStep_of_row hrow h.serving.busy
      rw [row_resp hp, respRow] at hstep
      obtain rfl := Host.Outcome.next.inj hstep
      exact (busy_iff.1 hserving.busy).2 rfl
    obtain ⟨hlen, hdst⟩ := h.row_dst hrow hresp
    have hsettled := row_keeps_settled hrow h.synced (read_not_writing h.synced.registers h.serving.op).2
    exact ⟨hserving, row_keeps_synced hrow h.synced, h.stored.of_settled hsettled, hlen.trans h.dst_length, hdst⟩
  · exact .inr (h.respond hp)

/-! ### A write, then a read of the same range -/

/-- A read that has ended, with no further request, stays as it is. -/
theorem ReadJob.Done.move (h : j.Done s) (hrest : j.rest = []) {m : Move} (hm : m.isQuiet = true) (ht : takeMove m s = .next t) :
    j.Done t := by
  obtain ⟨hp, hrs, hreq, hdst⟩ := h
  cases m with
  | reset | present _ | hostStore _ _ => cases hm
  | complete =>
    cases ht
    exact ⟨hp, hrs, hreq, hdst⟩
  | controller =>
    rw [takeMove, controllerStep_of_noRequest (.inr hp) (hreq.trans hrest)] at ht
    cases ht
    exact ⟨hp, hrs, hreq, hdst⟩

theorem ReadJob.Waiting.move (h : j.Waiting s) {m : Move} (hm : m.isQuiet = true) (ht : takeMove m s = .next t) :
    j.Waiting t ∨ j.Running t := by
  cases m with
  | reset | present _ | hostStore _ _ => cases hm
  | complete =>
    cases ht
    exact .inl h.complete
  | controller =>
    obtain ⟨u, hu, hrun⟩ := h.accept
    obtain rfl := Host.Outcome.next.inj (hu.symm.trans ht)
    exact .inr hrun

theorem ReadJob.Running.move (h : j.Running s) {m : Move} (hm : m.isQuiet = true) (ht : takeMove m s = .next t) :
    j.Running t ∨ j.Done t := by
  cases m with
  | reset | present _ | hostStore _ _ => cases hm
  | complete =>
    cases ht
    exact .inl h.complete
  | controller => exact h.row (controllerStep_row ht)

/-- The read of what a write has written. -/
def WriteJob.readBack (w : WriteJob) (r : Request) (hop : r.op = 1#2) (ha : r.address = w.request.address)
    (hn : r.count = w.request.count) (hb : w.request.buffer.length = w.request.count)
    (hd : r.buffer.length = w.request.count) : ReadJob where
  config := w.config
  request := r
  rest := []
  data := w.request.buffer
  op := hop
  address_fits := by rw [ha]; exact w.address_fits
  count_fits := by rw [hn]; exact w.count_fits
  inRange := by rw [ha, hn]; exact w.inRange
  data_length := by rw [hn, hb]
  buffer_length := by rw [hn, hd]

/-- A write that has ended leaves the array, once its cycle has, with what the read is to find. -/
theorem WriteJob.Done.readBack_waiting {w : WriteJob} {r : Request} {hop : r.op = 1#2} {ha : r.address = w.request.address}
    {hn : r.count = w.request.count} {hb : w.request.buffer.length = w.request.count}
    {hd : r.buffer.length = w.request.count} (h : w.Done s) (hrest : w.rest = [r]) :
    (w.readBack r hop ha hn hb hd).Waiting s where
  phase := h.phase
  config := h.config
  requests := h.requests.trans hrest
  kind := h.kind
  wf := h.wf
  stored := by
    intro k hk
    have hk' : k < w.request.count := hk.trans_eq hn
    have hin := h.settled_inside hk'
    rw [List.getD_eq_getElem _ _ (hb ▸ hk')] at hin
    show w.request.buffer[k]? = some (s.device.complete.mem.read (r.address + k))
    rw [ha, hin, List.getElem?_eq_getElem]

/-- Where a run of a write request and a read request after it can be. -/
def RoundTripStage (w : WriteJob) (r : ReadJob) (s : State) : Prop :=
  w.Waiting s ∨ w.Running s ∨ r.Waiting s ∨ r.Running s ∨ r.Done s

theorem roundTripStage_move {w : WriteJob} {r : ReadJob} (hback : ∀ s, w.Done s → r.Waiting s) (hrest : r.rest = []) {m : Move}
    (hm : m.isQuiet = true) (h : RoundTripStage w r s) (ht : takeMove m s = .next t) : RoundTripStage w r t := by
  rcases h with h | h | h | h | h
  · obtain ⟨u, hu, hres⟩ := h.move hm
    obtain rfl := Host.Outcome.next.inj (hu.symm.trans ht)
    rcases hres with hrun | ⟨hwait, -⟩
    · exact .inr (.inl hrun)
    · exact .inl hwait
  · obtain ⟨u, hu, hres⟩ := h.move hm
    obtain rfl := Host.Outcome.next.inj (hu.symm.trans ht)
    rcases hres with hdone | ⟨hrun, -⟩
    · exact .inr (.inr (.inl (hback _ hdone)))
    · exact .inr (.inl hrun)
  · rcases h.move hm ht with hwait | hrun
    · exact .inr (.inr (.inl hwait))
    · exact .inr (.inr (.inr (.inl hrun)))
  · rcases h.move hm ht with hrun | hdone
    · exact .inr (.inr (.inr (.inl hrun)))
    · exact .inr (.inr (.inr (.inr hdone)))
  · exact .inr (.inr (.inr (.inr (h.move hrest hm ht))))

/-- With nothing left on the port and the controller idle the read has ended. -/
theorem RoundTripStage.done {w : WriteJob} {r : ReadJob} (h : RoundTripStage w r s) (hp : s.phase = .idle)
    (hreq : s.requests = []) : r.Done s := by
  rcases h with h | h | h | h | h
  · simp [h.requests] at hreq
  · exact absurd hp (busy_iff.1 h.serving.busy).2
  · simp [h.requests] at hreq
  · exact absurd hp (busy_iff.1 h.serving.busy).2
  · exact h

/-- A run of a write and a read of its range that comes to an idle controller with nothing on its port. -/
theorem dst_of_run {w : WriteJob} {r : Request} {n : Nat} (hwait : w.Waiting (s.withSchedule [])) (hrest : w.rest = [r])
    (hop : r.op = 1#2) (ha : r.address = w.request.address) (hn : r.count = w.request.count)
    (hb : w.request.buffer.length = w.request.count) (hd : r.buffer.length = w.request.count) (hq : Undisturbed s)
    (h : run n s = .next t) (hp : t.phase = .idle) (hreq : t.requests = []) :
    t.dst = w.request.buffer ∧ t.rstat = .ok := by
  have hstart : RoundTripStage w (w.readBack r hop ha hn hb hd) (s.withSchedule []) := .inl hwait
  have hstage := run_invariant
    (fun _ _ _ hm hI ht => roundTripStage_move (fun _ hdone => hdone.readBack_waiting hrest) rfl hm hI ht) hq hstart h
  have hdone := hstage.done hp hreq
  exact ⟨hdone.dst, hdone.rstat⟩

/-- Settles O59: the write ends with its bytes in the array or pending, and the read polls until nothing is pending. -/
theorem roundTrip : Obligations.RoundTrip := by
  intro s t A N n B D hp hreq hA hN hr _ hB hD hk hwf hq hrun hpt hreqt
  have hwait : (WriteJob.start s ⟨2#2, A, N, B⟩ [⟨1#2, A, N, D⟩] rfl hA hN hr hB.ge).Waiting (s.withSchedule []) :=
    ⟨hp, rfl, hreq, hk, hwf, rfl, rfl⟩
  exact dst_of_run hwait rfl rfl rfl rfl hB hD hq hrun hpt hreqt

end Sys2Proof.Machine
end

section
/-! SUPPORT. The decoder of both encoded forms (30_encoding R81 to R92), said once: everything a whole frame can decode to, what a request
decodes to by its `op` field; and with that the two round trips and the opcode map. -/

namespace Sys2Proof.Machine

variable {c : Config} {r : Request} {bytes : List Byte} {i j : Instr}

/-! ### The data position -/

theorem requireData_read {m : Nat} (a : Addr) (h : 1 ≤ m) : requireData (.read a m) = .ok (.read a m) := by
  cases m with
  | zero => simp at h
  | succ m => rfl

theorem requireData_write {data : List Byte} (a : Addr) (h : 1 ≤ data.length) :
    requireData (.write a data) = .ok (.write a data) := by
  cases data with
  | nil => simp at h
  | cons b rest => rfl

theorem decodeFrame_of_parseFrame (h : parseFrame bytes = .ok i) : decodeFrame bytes = requireData i := by
  simp [decodeFrame, h]

/-! ### Everything a frame can decode to -/

/-- An F0 frame has no byte after its opcode. -/
theorem parseF0_cases (h : parseF0 i bytes = .ok j) : bytes = [] ∧ j = i := by
  unfold parseF0 at h
  split at h <;> cases h
  exact ⟨rfl, rfl⟩

/-- An F1 frame has one byte after its opcode, whatever it is. -/
theorem parseF1_cases (h : parseF1 i bytes = .ok j) : ∃ d, bytes = [d] ∧ j = i := by
  unfold parseF1 at h
  split at h <;> cases h
  exact ⟨_, rfl, rfl⟩

/-- After its opcode an FR or FW frame has the two bytes of the address field, then the data positions. -/
theorem parseAddressed_cases {build : Addr → List Byte → Instr} (h : parseAddressed build bytes = .ok j) :
    ∃ a data, bytes = hi8 a :: lo8 a :: data ∧ j = build a data := by
  unfold parseAddressed at h
  split at h <;> cases h
  exact ⟨_, _, by rw [hi8_joinAddr, lo8_joinAddr], rfl⟩

/-- Everything a frame can parse to: one of the five commands, in the format of 30_encoding R81. -/
theorem parseFrame_cases (h : parseFrame bytes = .ok i) :
    (∃ a data, bytes = writeFrame a data ∧ i = .write a data) ∨
    (∃ a data, bytes = opcodeRead :: hi8 a :: lo8 a :: data ∧ i = .read a data.length) ∨
    (bytes = [opcodeWrdi] ∧ i = .wrdi) ∨
    (∃ d, bytes = [opcodeRdsr, d] ∧ i = .rdsr) ∨
    (bytes = [opcodeWren] ∧ i = .wren) := by
  cases bytes with
  | nil => cases h
  | cons o rest =>
    simp only [parseFrame] at h
    split_ifs at h with hwrite hread hwrdi hrdsr hwren
    · obtain ⟨a, data, rfl, rfl⟩ := parseAddressed_cases h
      exact .inl ⟨a, data, by rw [hwrite, writeFrame], rfl⟩
    · obtain ⟨a, data, rfl, rfl⟩ := parseAddressed_cases h
      exact .inr (.inl ⟨a, data, by rw [hread], rfl⟩)
    · obtain ⟨rfl, rfl⟩ := parseF0_cases h
      exact .inr (.inr (.inl ⟨by rw [hwrdi], rfl⟩))
    · obtain ⟨d, rfl, rfl⟩ := parseF1_cases h
      exact .inr (.inr (.inr (.inl ⟨d, by rw [hrdsr], rfl⟩)))
    · obtain ⟨rfl, rfl⟩ := parseF0_cases h
      exact .inr (.inr (.inr (.inr ⟨by rw [hwren], rfl⟩)))

/-- 30_encoding R85: any other byte 0 is rejected, and the rejection names it. -/
theorem decodeFrame_unknownOpcode {o : Byte} (rest : List Byte) (hwrite : o ≠ opcodeWrite) (hread : o ≠ opcodeRead)
    (hwrdi : o ≠ opcodeWrdi) (hrdsr : o ≠ opcodeRdsr) (hwren : o ≠ opcodeWren) :
    decodeFrame (o :: rest) = .error (.unknownOpcode o) := by
  simp [decodeFrame, parseFrame, hwrite, hread, hwrdi, hrdsr, hwren]

/-! ### What a request decodes to -/

/-- The four values of the `op` field (30_encoding R92, R95). -/
theorem opField_cases (k : BitVec 2) : k = opInit ∨ k = opRead ∨ k = opWrite ∨ k = 3#2 := by
  revert k
  decide

theorem decodeRequest_init (h : r.op = opInit) : decodeRequest c r = .ok .init := by
  simp [decodeRequest, h]

theorem decodeRequest_read (h : r.op = opRead) : decodeRequest c r =
    if c.operandFits r.address && c.operandFits r.count then .ok (.hostRead r.address r.count r.buffer)
    else .error .operandTooWide := by
  simp [decodeRequest, h, opInit, opRead]

theorem decodeRequest_write (h : r.op = opWrite) : decodeRequest c r =
    if c.operandFits r.address && c.operandFits r.count then .ok (.hostWrite r.address r.count r.buffer)
    else .error .operandTooWide := by
  simp [decodeRequest, h, opInit, opRead, opWrite]

theorem decodeRequest_reserved (h : r.op = 3#2) : decodeRequest c r = .error .reservedOperation := by
  simp [decodeRequest, h, opInit, opRead, opWrite]

/-- No other code is rejected as the reserved one: a request of the other three decodes or has an operand too wide. -/
theorem decodeRequest_reserved_iff : decodeRequest c r = .error .reservedOperation ↔ r.op = 3#2 := by
  refine ⟨fun h => ?_, decodeRequest_reserved⟩
  rcases opField_cases r.op with hop | hop | hop | hop
  · cases (decodeRequest_init hop).symm.trans h
  · rw [decodeRequest_read hop] at h
    split at h <;> cases h
  · rw [decodeRequest_write hop] at h
    split at h <;> cases h
  · exact hop

theorem encode_of_decodeRequest (h : decodeRequest c r = .ok i) (hi : i ≠ .init) : encode c i = .request r := by
  rcases opField_cases r.op with hop | hop | hop | hop
  · cases (decodeRequest_init hop).symm.trans h
    exact absurd rfl hi
  · rw [decodeRequest_read hop] at h
    split at h <;> cases h
    rw [encode, ← hop]
  · rw [decodeRequest_write hop] at h
    split at h <;> cases h
    rw [encode, ← hop]
  · cases (decodeRequest_reserved hop).symm.trans h

/-! ### The obligations -/

/-- Settles O1: the parsing of each command's own frame, whose data position well-formedness supplies, and the fit of the operands of
each host operation. -/
theorem decodeOfEncode : Obligations.DecodeOfEncode := by
  intro c i hwf
  cases i with
  | wren => exact decodeFrame_of_parseFrame parseFrame_wren
  | wrdi => exact decodeFrame_of_parseFrame parseFrame_wrdi
  | rdsr => exact decodeFrame_of_parseFrame (parseFrame_rdsr c.dummyByte)
  | read a m =>
    simp only [Instr.wf, Bool.and_eq_true, decide_eq_true_eq] at hwf
    obtain ⟨hm, -⟩ := hwf
    exact (decodeFrame_of_parseFrame (parseFrame_readFrame c a m)).trans (requireData_read a hm)
  | write a data =>
    simp only [Instr.wf, Bool.and_eq_true, decide_eq_true_eq] at hwf
    obtain ⟨⟨⟨hdata, -⟩, -⟩, -⟩ := hwf
    exact (decodeFrame_of_parseFrame (parseFrame_writeFrame a data)).trans (requireData_write a hdata)
  | init => exact decodeRequest_init rfl
  | hostRead a n buffer => exact (decodeRequest_read rfl).trans (if_pos hwf)
  | hostWrite a n buffer => exact (decodeRequest_write rfl).trans (if_pos hwf)

/-- Settles O2: each frame that parses is the encoder's own, but for the byte of RDSR and those of READ that are not looked at. -/
theorem encodeOfDecode : Obligations.EncodeOfDecode := by
  refine ⟨fun c bytes i h => ?_, fun c r i => encode_of_decodeRequest⟩
  rcases parseFrame_cases (parseFrame_of_decodeFrame h) with
    ⟨a, data, rfl, rfl⟩ | ⟨a, data, rfl, rfl⟩ | ⟨rfl, rfl⟩ | ⟨d, rfl, rfl⟩ | ⟨rfl, rfl⟩
  · exact ⟨_, rfl, rfl, fun _ _ _ => rfl⟩
  · refine ⟨readFrame c a data.length, rfl, by simp [readFrame], fun k _ hk => ?_⟩
    have hfixed : k < [opcodeRead, hi8 a, lo8 a].length := hk a data.length rfl
    exact (List.getElem?_append_left hfixed).trans (List.getElem?_append_left hfixed).symm
  · exact ⟨_, rfl, rfl, fun _ _ _ => rfl⟩
  · refine ⟨_, rfl, rfl, fun k hk _ => ?_⟩
    obtain rfl : k = 0 := Nat.lt_one_iff.1 (hk rfl)
    rfl
  · exact ⟨_, rfl, rfl, fun _ _ _ => rfl⟩

/-- Settles O3: byte 0 of each frame that parses, and the request codes that decode. -/
theorem opcodeMap : Obligations.OpcodeMap := by
  refine ⟨fun o rest i h => ?_, fun o rest => decodeFrame_unknownOpcode rest, fun c r => decodeRequest_reserved_iff⟩
  rcases parseFrame_cases (parseFrame_of_decodeFrame h) with
    ⟨a, data, hb, rfl⟩ | ⟨a, data, hb, rfl⟩ | ⟨hb, rfl⟩ | ⟨d, hb, rfl⟩ | ⟨hb, rfl⟩
  · exact .inl ⟨List.head_eq_of_cons_eq hb, a, data, rfl⟩
  · exact .inr (.inl ⟨List.head_eq_of_cons_eq hb, a, _, rfl⟩)
  · exact .inr (.inr (.inl ⟨List.head_eq_of_cons_eq hb, rfl⟩))
  · exact .inr (.inr (.inr (.inl ⟨List.head_eq_of_cons_eq hb, rfl⟩)))
  · exact .inr (.inr (.inr (.inr ⟨List.head_eq_of_cons_eq hb, rfl⟩)))

/-- Settles O4: ten closed words, each decoded by evaluation. -/
theorem tableWords : Obligations.TableWords := by
  unfold Obligations.TableWords
  decide

end Sys2Proof.Machine
end

section
/-! SUPPORT. The wire commands at the edges of their rows: the two bytes of the address field (30_encoding R83), the phases of other
commands (log 18), and the data positions that the host's buffer does not have (log 23). -/

namespace Sys2Proof.Machine

variable {s t : State}

/-! ### The address field -/

/-- Under Burst a READ transaction starts with no byte of the request behind it. -/
theorem index_zero_of_burst (hinv : RegisterInv t) (hb : t.config.readFraming = .burst)
    (hp : t.phase = .rdAh ∨ t.phase = .rdAl) : t.i = 0 := by
  obtain ⟨-, -, hphase⟩ := hinv
  rcases hp with hp | hp <;>
  · simp only [PhaseInv, hp] at hphase
    obtain ⟨-, -, -, hburst⟩ := hphase
    exact hburst hb

/-- Settles O5: the rows of the four address phases, with the halves of the field as quotient and remainder. -/
theorem addressField_highByteFirst : Obligations.AddressField := by
  intro s t a hturn _
  rw [step_of_turn hturn]
  refine ⟨?_, ?_, ?_, ?_, fun hinv hb hp => by rw [index_zero_of_burst hinv hb hp, Nat.add_zero]⟩
  · rintro hp rfl
    rw [row_rdAh hp, hi8_addressField, sendStep]
  · rintro hp rfl
    rw [row_rdAl hp, lo8_addressField, sendStep]
  · rintro hp rfl
    rw [row_wrAh hp, hi8_addressField, sendStep]
  · rintro hp rfl
    rw [row_wrAl hp, lo8_addressField]

/-! ### In a phase of another command -/

theorem execWren_of_foreign_phase (h : ∀ p ∈ [Phase.wrenSel, .wrenOp, .wrenDesel, .wrenHold], s.phase ≠ p) :
    execWren s = .refused .notInvocable := by
  unfold execWren
  split
  case h_5 => rfl
  all_goals exact absurd ‹_› (h _ (by decide))

theorem execWrdi_of_foreign_phase (h : ∀ p ∈ [Phase.wrdiSel, .wrdiOp, .wrdiDesel, .wrdiHold], s.phase ≠ p) :
    execWrdi s = .refused .notInvocable := by
  unfold execWrdi
  split
  case h_5 => rfl
  all_goals exact absurd ‹_› (h _ (by decide))

theorem execRdsr_of_foreign_phase (h : ∀ p ∈ [Phase.pollSel, .pollOp, .pollDummy, .pollDesel, .pollHold], s.phase ≠ p) :
    execRdsr s = .refused .notInvocable := by
  unfold execRdsr
  split
  case h_6 => rfl
  all_goals exact absurd ‹_› (h _ (by decide))

theorem execRead_of_foreign_phase (a : Addr) (m : Nat)
    (h : ∀ p ∈ [Phase.rdSel, .rdOp, .rdAh, .rdAl, .rdData, .rdDesel, .rdHold], s.phase ≠ p) :
    execRead a m s = .refused .notInvocable := by
  unfold execRead
  split
  case h_8 => rfl
  all_goals exact absurd ‹_› (h _ (by decide))

theorem execWrite_of_foreign_phase (a : Addr) (data : List Byte)
    (h : ∀ p ∈ [Phase.wrSel, .wrOp, .wrAh, .wrAl, .wrData, .wrDesel, .wrHold], s.phase ≠ p) :
    execWrite a data s = .refused .notInvocable := by
  unfold execWrite
  split
  case h_8 => rfl
  all_goals exact absurd ‹_› (h _ (by decide))

/-! ### A data position without a byte in the buffer -/

theorem readDataRow_of_short_buffer {m : Nat} (hm : 1 ≤ m) (hi : s.dst.length ≤ s.i) :
    readDataRow m s = .fault .bufferOutOfBounds := by
  have hm0 : m ≠ 0 := by omega
  simp [readDataRow, memWriteDst, hm0, hi.not_gt]

theorem writeDataRow_of_short_buffer (hi : s.i < s.n) : writeDataRow [] s = .fault .bufferOutOfBounds := by
  simp [writeDataRow, hi]

theorem execRead_data (a : Addr) (m : Nat) (hp : s.phase = .rdData) : execRead a m s = readDataRow m s := by
  simp [execRead, hp]

theorem execWrite_data (a : Addr) (data : List Byte) (hp : s.phase = .wrData) : execWrite a data s = writeDataRow data s := by
  simp [execWrite, hp]

/-- Settles O12: each command's last arm, and the fault arm of each data row. -/
theorem wireCommandsStop : Obligations.WireCommandsStop := fun _ =>
  ⟨execWren_of_foreign_phase, execWrdi_of_foreign_phase, execRdsr_of_foreign_phase, execRead_of_foreign_phase,
    execWrite_of_foreign_phase,
    fun a m hp hm hi => (execRead_data a m hp).trans (readDataRow_of_short_buffer hm hi),
    fun a hp hi => (execWrite_data a [] hp).trans (writeDataRow_of_short_buffer hi)⟩

end Sys2Proof.Machine
end

section
/-! SUPPORT. The transport primitives (40_transport R110 to R117): what the environment's draws change, what an exchange leaves once the
received byte is blotted out, and what the monitor allows between a `Desel` and the next `Sel`. -/

namespace Sys2Proof.Machine

variable {c : Config} {s t : State} {o : Byte} {q : List Byte} {b b' : BusState} {e : Event}

/-! ### The draws from the environment -/

/-- A draw of a byte changes the environment's inputs and nothing else. -/
theorem byteDrawn_eq (s : State) : ∃ replies draws, s.byteDrawn = { s with replies := replies, draws := draws } := by
  unfold State.byteDrawn
  split <;> exact ⟨_, _, rfl⟩

/-- A draw of a delay changes the environment's inputs and nothing else. -/
theorem delayDrawn_eq (s : State) : ∃ delays draws, s.delayDrawn = { s with delays := delays, draws := draws } := by
  unfold State.delayDrawn
  split <;> exact ⟨_, _, rfl⟩

theorem exchangeDrawn_eq (s : State) (o : Byte) :
    ∃ replies draws, exchangeDrawn s o = { s with replies := replies, draws := draws } := by
  unfold exchangeDrawn
  split
  · exact byteDrawn_eq s
  · exact byteDrawn_eq s
  · exact ⟨s.replies, s.draws, rfl⟩

/-! ### The primitives -/

/-- Settles O7: a primitive writes its own fields over what its draw has left. -/
theorem transportPrimitives : Obligations.TransportPrimitives := by
  refine fun s => ⟨rfl, fun o => ?_, fun p d hd => deselectStep_of_deselect hd, ?_⟩
  · obtain ⟨replies, draws, hdrawn⟩ := exchangeDrawn_eq s o
    exact ⟨replies, draws, by rw [exchange, hdrawn]⟩
  · obtain ⟨delays, draws, hdrawn⟩ := delayDrawn_eq s
    exact ⟨delays, draws, holdTime s, le_holdTime s, by rw [hold, hdrawn]⟩

/-! ### The received byte blotted out -/

/-- The state with the trace and the device's remaining replies blotted out: where alone a discarded byte is seen. -/
def State.blotReplies (s : State) : State := { s with trace := [], replies := [] }

/-- The state with other bytes for the device to say. -/
def State.withReplies (s : State) (q : List Byte) : State := { s with replies := q }

theorem byteDrawn_blotReplies (hq : s.replies ≠ []) : s.byteDrawn.blotReplies = s.blotReplies := by
  obtain ⟨b, rest, hb⟩ := List.exists_cons_of_ne_nil hq
  simp [State.byteDrawn, State.blotReplies, hb]

/-- While the device has a byte to say, none is a free value, and a draw moves no counter. -/
theorem exchangeDrawn_blotReplies (hq : s.replies ≠ []) (o : Byte) : (exchangeDrawn s o).blotReplies = s.blotReplies := by
  unfold exchangeDrawn
  split
  · exact byteDrawn_blotReplies hq
  · exact byteDrawn_blotReplies hq
  · rfl

/-- Of an exchange the byte sent is left, in the device; the byte received is not. -/
theorem exchange_blotReplies (hq : s.replies ≠ []) (o : Byte) :
    (exchange s o).blotReplies = { s.blotReplies with device := s.device.receive o } :=
  congrArg (fun v : State => { v with device := s.device.receive o }) (exchangeDrawn_blotReplies hq o)

/-- With `q` for the device to say, `s` still has a step, to a state that differs from `t` at most in the trace and the replies. -/
def DiscardsReply (s t : State) (q : List Byte) : Prop :=
  ∃ u, controllerStep (s.withReplies q) = .next u ∧ t.blotReplies = u.blotReplies

/-- A row that exchanges `o` and then changes the state by an update `f` that reads neither the trace nor the replies. -/
theorem discardsReply_of_exchange {f : State → State} (o : Byte)
    (hrow : ∀ q, controllerStep (s.withReplies q) = .next (f (exchange (s.withReplies q) o)))
    (hf : ∀ v, (f v).blotReplies = f v.blotReplies) (hs : s.replies ≠ []) (hq : q ≠ []) (ht : controllerStep s = .next t) :
    DiscardsReply s t q := by
  have htf : t = f (exchange s o) := Host.Outcome.next.inj (ht.symm.trans (hrow s.replies))
  refine ⟨_, hrow q, ?_⟩
  calc
    t.blotReplies = f { s.blotReplies with device := s.device.receive o } := by rw [htf, hf, exchange_blotReplies hs]
    _ = (f (exchange (s.withReplies q) o)).blotReplies := by rw [hf, exchange_blotReplies hq]; rfl

theorem discardsReply_of_sendStep {p : Phase} (o : Byte)
    (hrow : ∀ q, controllerStep (s.withReplies q) = sendStep o p (s.withReplies q))
    (hs : s.replies ≠ []) (hq : q ≠ []) (ht : controllerStep s = .next t) : DiscardsReply s t q :=
  discardsReply_of_exchange (f := (State.goto · p)) o hrow (fun _ => rfl) hs hq ht

/-- S_WR_DATA: with a position left it sends the byte of the source buffer, which is the same whatever the device says; else it waits. -/
theorem discardsReply_wrData (hp : s.phase = .wrData) (hs : s.replies ≠ []) (hq : q ≠ []) (ht : controllerStep s = .next t) :
    DiscardsReply s t q := by
  rcases writeDataRow_cases ((row_wrData hp).symm.trans ht) with ⟨hi, rfl⟩ | ⟨hi, b, rest, hdata, -⟩
  · have hrow : controllerStep (t.withReplies q) = writeDataRow (pendingData t) (t.withReplies q) := row_wrData hp
    exact ⟨t.withReplies q, hrow.trans (if_neg hi.not_gt), rfl⟩
  · have hb : memReadSrc s (s.cur - s.A + s.i) = some b := by rw [← pendingData_head hp hi, hdata, List.head?_cons]
    exact discardsReply_of_exchange (f := fun v => { v with i := s.i + 1, phase := if s.i + 1 < s.n then .wrData else .wrDesel })
      b (fun _ => row_wrData_of_src hp hi hb) (fun _ => rfl) hs hq ht

/-- Settles O41: eight rows only exchange a byte and go on; S_WR_AL also clears `i`; the tenth is S_WR_DATA. -/
theorem receivedByteDiscarded : Obligations.ReceivedByteDiscarded := by
  intro s x y rest hphase hr t ht
  have hs : s.replies ≠ [] := by simp [hr]
  have hq : y :: rest ≠ [] := List.cons_ne_nil y rest
  change DiscardsReply s t (y :: rest)
  rcases hphase with hp | hp | hp | hp | hp | hp | hp | hp | hp | hp
  · exact discardsReply_of_sendStep opcodeRdsr (fun _ => row_pollOp hp) hs hq ht
  · exact discardsReply_of_sendStep opcodeRead (fun _ => row_rdOp hp) hs hq ht
  · exact discardsReply_of_sendStep (hi8 (addressField (s.A + s.i))) (fun _ => row_rdAh hp) hs hq ht
  · exact discardsReply_of_sendStep (lo8 (addressField (s.A + s.i))) (fun _ => row_rdAl hp) hs hq ht
  · exact discardsReply_of_sendStep opcodeWren (fun _ => row_wrenOp hp) hs hq ht
  · exact discardsReply_of_sendStep opcodeWrite (fun _ => row_wrOp hp) hs hq ht
  · exact discardsReply_of_sendStep (hi8 (addressField s.cur)) (fun _ => row_wrAh hp) hs hq ht
  · exact discardsReply_of_exchange (f := fun v => { v with i := 0, phase := .wrData }) (lo8 (addressField s.cur))
      (fun _ => row_wrAl hp) (fun _ => rfl) hs hq ht
  · exact discardsReply_wrData hp hs hq ht
  · exact discardsReply_of_sendStep opcodeWrdi (fun _ => row_wrdiOp hp) hs hq ht

/-! ### The monitor between `Desel` and `Sel` -/

/-- Where the monitor is while chip-select is inactive and no hold is to come. -/
def BusState.quiet : BusState → Bool
  | .between | .operation _ => true
  | .selected _ _ _ | .released _ => false

/-- The scan of a trace, cut at one event. -/
theorem busScan_cut {before after : List Event} (h : busScan c (before ++ e :: after) = some b) :
    ∃ b₀ b₁, busScan c before = some b₀ ∧ busEvent c b₀ e = some b₁ ∧ after.foldlM (busEvent c) b₁ = some b := by
  simp only [busScan, List.foldlM_append, List.foldlM_cons, Option.bind_eq_bind, Option.bind_eq_some_iff] at h
  obtain ⟨b₀, hbefore, b₁, he, hafter⟩ := h
  exact ⟨b₀, b₁, hbefore, he, hafter⟩

/-- After `Desel` the monitor takes nothing but a hold of at least T_CSD_MIN. -/
theorem busEvent_released {u : Transaction} (h : busEvent c (.released u) e = some b') :
    ∃ d, e = .hold d ∧ c.tCsdMin ≤ d ∧ b'.quiet = true := by
  cases e with
  | hold d =>
    simp only [busEvent, Option.ite_none_right_eq_some, Option.some.injEq] at h
    obtain ⟨hd, rfl⟩ := h
    exact ⟨d, rfl, hd, rfl⟩
  | init | req _ _ _ | sel | xfer _ _ | desel | resp _ => simp [busEvent] at h

/-- While it is quiet, the one bus event the monitor takes is `Sel`. -/
theorem busEvent_quiet (hb : b.quiet = true) (he : e ≠ .sel) (h : busEvent c b e = some b') :
    e.isBus = false ∧ b'.quiet = true := by
  cases e with
  | sel => exact absurd rfl he
  | xfer _ _ | desel | hold _ => cases b <;> simp [busEvent, BusState.quiet] at h hb
  | init | req _ _ _ =>
    cases b <;> simp only [busEvent, reduceCtorEq, Option.some.injEq] at h
    subst h
    exact ⟨rfl, rfl⟩
  | resp r =>
    cases b <;> simp only [busEvent, reduceCtorEq, Option.ite_none_right_eq_some, Option.some.injEq] at h
    obtain ⟨-, rfl⟩ := h
    exact ⟨rfl, rfl⟩

/-- From a quiet point to the next `Sel` there is no bus event. -/
theorem isBus_filter_of_quiet {between after : List Event} (hb : b.quiet = true) (hsel : .sel ∉ between)
    (h : (between ++ after).foldlM (busEvent c) b = some b') : between.filter Event.isBus = [] := by
  induction between generalizing b with
  | nil => rfl
  | cons e rest ih =>
    simp only [List.cons_append, List.foldlM_cons, Option.bind_eq_bind, Option.bind_eq_some_iff] at h
    obtain ⟨b₁, he, hrest⟩ := h
    simp only [List.mem_cons, not_or] at hsel
    obtain ⟨hbus, hb₁⟩ := busEvent_quiet hb (Ne.symm hsel.1) he
    rw [List.filter_cons_of_neg (by simp [hbus]), ih hb₁ hsel.2 hrest]

/-- Settles O50: the monitor demands the hold right after `Desel`, and takes no other bus event before `Sel`. -/
theorem deselectTimeHeld : Obligations.DeselectTimeHeld := by
  rintro s before between after ⟨b, hscan, -⟩ htrace hsel
  rw [htrace] at hscan
  obtain ⟨b₀, b₁, -, hdesel, hrest⟩ := busScan_cut hscan
  obtain ⟨u, rfl⟩ := busEvent_desel hdesel
  cases between with
  | nil => simp [busEvent] at hrest
  | cons e between =>
    simp only [List.cons_append, List.foldlM_cons, Option.bind_eq_bind, Option.bind_eq_some_iff] at hrest
    obtain ⟨b₂, he, hquiet⟩ := hrest
    obtain ⟨d, rfl, hd, hb₂⟩ := busEvent_released he
    have hnone := isBus_filter_of_quiet hb₂ (fun h => hsel (List.mem_cons_of_mem _ h)) hquiet
    exact ⟨d, hd, by rw [List.filter_cons_of_pos rfl, hnone]⟩

end Sys2Proof.Machine
end

section
/-! SUPPORT. Bracketing (41_command_codec R136) through the monitor: the bus events read so far end with the transaction that its state
names, a `Sel` is followed by a command that may come next, and after a WREN or a WRITE only one may. -/

namespace Sys2Proof.Machine

variable {c : Config} {b b' : BusState} {e : Event} {tr : List Event}

/-! ### The last transaction of a trace -/

/-- The bus events `l` end with the transaction `u` and its hold, and its frame is legal. -/
def EndsWith (c : Config) (l : List Event) (u : Transaction) : Prop :=
  frameLegal c u.sent = true ∧
    ∃ p got d, got.length = u.sent.length ∧ got.getLastD 0x00#8 = u.last ∧ l = p ++ tx u.sent got d

/-- What the monitor's state says of the bus events `l` read so far: the present transaction, or the one just finished, is their end. -/
def BusTail (c : Config) (l : List Event) : BusState → Prop
  | .between => True
  | .operation t => ∀ u, t = some u → EndsWith c l u
  | .selected _ sent last =>
    ∃ p got, got.length = sent.length ∧ got.getLastD 0x00#8 = last ∧ l = p ++ .sel :: List.zipWith .xfer sent got
  | .released u => frameLegal c u.sent = true ∧ ∃ p got, got.length = u.sent.length ∧ got.getLastD 0x00#8 = u.last ∧
      l = p ++ .sel :: (List.zipWith .xfer u.sent got ++ [.desel])

theorem busTail_step (h : busEvent c b e = some b') (hb : BusTail c (tr.filter Event.isBus) b) :
    BusTail c ((tr ++ [e]).filter Event.isBus) b' := by
  rw [List.filter_append]
  cases b with
  | between =>
    cases e with
    | init =>
      cases h
      trivial
    | req _ _ _ =>
      cases h
      nofun
    | sel | xfer _ _ | desel | hold _ | resp _ => simp [busEvent] at h
  | operation t =>
    cases e with
    | sel =>
      simp only [busEvent, Option.some.injEq] at h
      subst h
      exact ⟨_, [], rfl, rfl, rfl⟩
    | resp r =>
      simp only [busEvent, Option.ite_none_right_eq_some, Option.some.injEq] at h
      obtain ⟨-, rfl⟩ := h
      trivial
    | init | req _ _ _ | xfer _ _ | desel | hold _ => simp [busEvent] at h
  | selected t sent last =>
    obtain ⟨p, got, hlen, hlast, hl⟩ := hb
    cases e with
    | xfer o v =>
      simp only [busEvent, Option.some.injEq] at h
      subst h
      refine ⟨p, got ++ [v], by simp [hlen], List.getLastD_concat, ?_⟩
      rw [hl, List.zipWith_append hlen.symm]
      simp [Event.isBus]
    | desel =>
      cases sent with
      | nil => simp [busEvent] at h
      | cons o rest =>
        simp only [busEvent, Option.ite_none_right_eq_some, Option.some.injEq, Bool.and_eq_true] at h
        obtain ⟨⟨hlegal, -⟩, rfl⟩ := h
        exact ⟨hlegal, p, got, hlen, hlast, by rw [hl]; simp [Event.isBus]⟩
    | init | req _ _ _ | sel | hold _ | resp _ => simp [busEvent] at h
  | released u =>
    obtain ⟨hlegal, p, got, hlen, hlast, hl⟩ := hb
    cases e with
    | hold d =>
      simp only [busEvent, Option.ite_none_right_eq_some, Option.some.injEq] at h
      obtain ⟨-, rfl⟩ := h
      rintro _ ⟨⟩
      exact ⟨hlegal, p, got, d, hlen, hlast, by rw [hl]; simp [tx, Event.isBus]⟩
    | init | req _ _ _ | sel | xfer _ _ | desel | resp _ => simp [busEvent] at h

theorem busTail_of_busScan (h : busScan c tr = some b) : BusTail c (tr.filter Event.isBus) b := by
  induction tr using List.reverseRecOn generalizing b with
  | nil =>
    cases h
    trivial
  | append_singleton tr e ih =>
    obtain ⟨b₀, b₁, hbefore, he, hb⟩ := busScan_cut h
    cases hb
    exact busTail_step he (ih hbefore)

/-! ### What may follow what -/

theorem has_iff {u : Transaction} {o : Byte} : u.has o = true ↔ ∃ rest, u.sent = o :: rest := by
  simp [Transaction.has, List.head?_eq_some_iff]

theorem isIdlePoll_iff {u : Transaction} : u.isIdlePoll = true ↔ u.has opcodeRdsr = true ∧ statusBusy u.last = false := by
  simp [Transaction.isIdlePoll]

theorem has_eq_false {u : Transaction} {o o' : Byte} (h : u.has o = true) (ho : o' ≠ o) : u.has o' = false := by
  simp only [Transaction.has, decide_eq_true_eq, decide_eq_false_iff_not] at h ⊢
  exact fun h' => ho (Option.some.inj (h'.symm.trans h))

/-- An open transaction that has sent its opcode may follow the one before it. -/
def BusState.FollowsRightly (b : BusState) : Prop :=
  ∀ t o rest v, b = .selected t (o :: rest) v → mayFollow t o = true

/-- The phase knows the opcode of the open transaction, so the bus invariant says it of a trace that stops inside one. -/
theorem followsRightly_of_busAt {s : State} (h : BusAt s b) : b.FollowsRightly := by
  rintro t o rest v rfl
  cases hp : s.phase <;> simp only [BusAt, hp] at h
  case pollDummy | rdAh | rdAl | rdData | wrenDesel | wrAh | wrAl | wrdiDesel =>
    obtain ⟨_, _, heq, hmay⟩ := h
    cases heq
    exact hmay
  case pollDesel =>
    obtain ⟨_, heq, hmay⟩ := h
    cases heq
    exact hmay
  case rdDesel =>
    obtain ⟨_, _, heq, hmay⟩ := h
    obtain ⟨r, hr⟩ := readFrameDone_cons s
    rw [hr] at heq
    cases heq
    exact hmay
  case wrData | wrDesel =>
    obtain ⟨_, _, _, heq, -, hmay⟩ := h
    cases heq
    exact hmay
  all_goals simp at h

theorem mayFollow_of_scan {t : Option Transaction} {o : Byte} {sent : List Byte} {v : Byte} {after : List Event}
    (h : after.foldlM (busEvent c) (.selected t (o :: sent) v) = some b) (hb : b.FollowsRightly) : mayFollow t o = true := by
  induction after generalizing sent v with
  | nil =>
    cases h
    exact hb t o sent v rfl
  | cons e rest ih =>
    simp only [List.foldlM_cons, Option.bind_eq_bind, Option.bind_eq_some_iff] at h
    obtain ⟨b₁, he, hrest⟩ := h
    cases e with
    | xfer o' v' =>
      cases he
      exact ih hrest
    | desel =>
      simp only [busEvent, Option.ite_none_right_eq_some, Bool.and_eq_true] at he
      obtain ⟨⟨-, hmay⟩, -⟩ := he
      exact hmay
    | init | req _ _ _ | sel | hold _ | resp _ => simp [busEvent] at he

/-- Only a poll may be the first transaction of an operation. -/
theorem exists_before_of_mayFollow {t : Option Transaction} {o : Byte} (ho : o ≠ opcodeRdsr) (h : mayFollow t o = true) :
    ∃ u, t = some u := by
  cases t with
  | none => simp [mayFollow, ho] at h
  | some u => exact ⟨u, rfl⟩

theorem mayFollow_write (u : Transaction) : mayFollow (some u) opcodeWrite = u.has opcodeWren := by
  simp [mayFollow, opcodeWrite, opcodeRdsr, opcodeRead, opcodeWren, opcodeWrdi]

theorem mayFollow_wren (u : Transaction) : mayFollow (some u) opcodeWren = u.isIdlePoll := by
  simp [mayFollow, opcodeWrite, opcodeRdsr, opcodeRead, opcodeWren, opcodeWrdi]

theorem mayFollow_wrdi (u : Transaction) : mayFollow (some u) opcodeWrdi = u.has opcodeWrite := by
  simp [mayFollow, opcodeWrite, opcodeRdsr, opcodeRead, opcodeWren, opcodeWrdi]

/-- The one opcode that may follow a transaction with the opcode `o`, which is WREN's or WRITE's. -/
inductive NextOpcode : Byte → Byte → Prop
  | afterWren : NextOpcode opcodeWren opcodeWrite
  | afterWrite : NextOpcode opcodeWrite opcodeWrdi

theorem mayFollow_next {u : Transaction} {o o' x : Byte} (hn : NextOpcode o o') (hu : u.has o = true)
    (h : mayFollow (some u) x = true) : x = o' := by
  have hno : ∀ y, y ≠ o → u.has y = false := fun y => has_eq_false hu
  cases hn with
  | afterWren =>
    simpa [mayFollow, Transaction.isIdlePoll, Transaction.isBusyPoll, hno opcodeRdsr (by decide), hno opcodeWrdi (by decide),
      hno opcodeRead (by decide), hno opcodeWrite (by decide), hu] using h
  | afterWrite =>
    simpa [mayFollow, Transaction.isIdlePoll, Transaction.isBusyPoll, hno opcodeRdsr (by decide), hno opcodeWrdi (by decide),
      hno opcodeRead (by decide), hno opcodeWren (by decide), hu] using h

theorem mayRespond_next {u : Transaction} {o o' : Byte} (hn : NextOpcode o o') (hu : u.has o = true) (r : Status) :
    mayRespond (some u) r = false := by
  have hno : ∀ y, y ≠ o → u.has y = false := fun y => has_eq_false hu
  cases r with
  | outOfRange => rfl
  | ok =>
    cases hn <;>
    simp [mayRespond, Transaction.isIdlePoll, hno opcodeRdsr (by decide), hno opcodeWrdi (by decide), hno opcodeRead (by decide)]

/-- A transaction with the opcode `o` is open, or it is finished and nothing has followed it yet. -/
def BusState.atOpcode (o : Byte) : BusState → Prop
  | .between => False
  | .operation t => ∃ u, t = some u ∧ u.has o = true
  | .selected _ sent _ => sent.head? = some o
  | .released u => u.has o = true

theorem atOpcode_selected (t : Option Transaction) (o v : Byte) : (BusState.selected t [o] v).atOpcode o := rfl

/-- Until the next `Sel` the monitor stays with a WREN or a WRITE, since no response may follow it. -/
theorem atOpcode_step {o o' : Byte} (hn : NextOpcode o o') (hb : b.atOpcode o) (he : e ≠ .sel) (h : busEvent c b e = some b') :
    b'.atOpcode o := by
  cases b with
  | between => exact hb.elim
  | operation t =>
    obtain ⟨u, rfl, hu⟩ := hb
    cases e with
    | sel => exact absurd rfl he
    | resp r => simp [busEvent, mayRespond_next hn hu] at h
    | init | req _ _ _ | xfer _ _ | desel | hold _ => simp [busEvent] at h
  | selected t sent last =>
    cases sent with
    | nil => cases hb
    | cons x rest =>
      cases e with
      | xfer y v =>
        cases h
        exact hb
      | desel =>
        simp only [busEvent, Option.ite_none_right_eq_some, Option.some.injEq] at h
        obtain ⟨-, rfl⟩ := h
        exact decide_eq_true hb
      | init | req _ _ _ | sel | hold _ | resp _ => simp [busEvent] at h
  | released u =>
    cases e with
    | hold d =>
      simp only [busEvent, Option.ite_none_right_eq_some, Option.some.injEq] at h
      obtain ⟨-, rfl⟩ := h
      exact ⟨u, rfl, hb⟩
    | init | req _ _ _ | sel | xfer _ _ | desel | resp _ => simp [busEvent] at h

/-- The next transaction after a WREN or a WRITE has the one opcode that may follow. -/
theorem nextOpcode_of_scan {o o' x w : Byte} {between after : List Event} (hn : NextOpcode o o') (ho : b.atOpcode o)
    (hsel : .sel ∉ between) (h : (between ++ .sel :: .xfer x w :: after).foldlM (busEvent c) b = some b')
    (hb : b'.FollowsRightly) : x = o' := by
  induction between generalizing b with
  | nil =>
    simp only [List.nil_append, List.foldlM_cons, Option.bind_eq_bind, Option.bind_eq_some_iff] at h
    obtain ⟨b₁, hs, b₂, hx, hafter⟩ := h
    cases b with
    | operation t =>
      obtain ⟨u, rfl, hu⟩ := ho
      cases hs
      cases hx
      exact mayFollow_next hn hu (mayFollow_of_scan hafter hb)
    | between | selected _ _ _ | released _ => simp [busEvent] at hs
  | cons e rest ih =>
    simp only [List.cons_append, List.foldlM_cons, Option.bind_eq_bind, Option.bind_eq_some_iff] at h
    obtain ⟨b₁, he, hrest⟩ := h
    simp only [List.mem_cons, not_or] at hsel
    exact ih (atOpcode_step hn ho (Ne.symm hsel.1) he) hsel.2 hrest

/-! ### The frames before -/

theorem sent_of_wren {u : Transaction} (hl : frameLegal c u.sent = true) (hu : u.has opcodeWren = true) : u.sent = [opcodeWren] := by
  obtain ⟨rest, hs⟩ := has_iff.1 hu
  rw [hs] at hl ⊢
  match rest with
  | [] => rfl
  | [_] | _ :: _ :: _ => simp [frameLegal, opcodeWren, opcodeRdsr, opcodeRead, opcodeWrite] at hl

theorem sent_of_rdsr {u : Transaction} (hl : frameLegal c u.sent = true) (hu : u.has opcodeRdsr = true) :
    u.sent = [opcodeRdsr, c.dummyByte] := by
  obtain ⟨rest, hs⟩ := has_iff.1 hu
  rw [hs] at hl ⊢
  match rest with
  | [_] => simpa [frameLegal] using hl
  | [] | _ :: _ :: _ => simp [frameLegal, opcodeWren, opcodeWrdi, opcodeRdsr, opcodeRead, opcodeWrite] at hl

/-- A transaction other than a poll that begins in the middle of a trace: the bus events before it end with a transaction that it may
follow. -/
theorem before_of_busInv {s : State} {before after : List Event} {o v : Byte} (hi : BusInv s) (ho : o ≠ opcodeRdsr)
    (htrace : s.trace = before ++ .sel :: .xfer o v :: after) :
    ∃ u b', EndsWith s.config (before.filter Event.isBus) u ∧ mayFollow (some u) o = true ∧
      after.foldlM (busEvent s.config) (.selected (some u) [o] v) = some b' ∧ b'.FollowsRightly := by
  obtain ⟨b', hscan, hat⟩ := hi
  rw [htrace] at hscan
  obtain ⟨b₀, b₁, hbefore, hsel, hrest⟩ := busScan_cut hscan
  simp only [List.foldlM_cons, Option.bind_eq_bind, Option.bind_eq_some_iff] at hrest
  obtain ⟨b₂, hx, hafter⟩ := hrest
  cases b₀ with
  | operation t =>
    cases hsel
    cases hx
    have hb := followsRightly_of_busAt hat
    have hmay := mayFollow_of_scan hafter hb
    obtain ⟨u, rfl⟩ := exists_before_of_mayFollow ho hmay
    exact ⟨u, b', busTail_of_busScan hbefore u rfl, hmay, hafter, hb⟩
  | between | selected _ _ _ | released _ => simp [busEvent] at hsel

theorem sel_not_mem_zipWith (sent got : List Byte) : .sel ∉ List.zipWith Event.xfer sent got := by
  simp [← List.map_uncurry_zip_eq_zipWith]

/-- Settles O51: the bus events before a `Sel` end with a transaction that the monitor lets the new one follow; and after a WREN or a
WRITE it lets nothing else follow, nor a response. -/
theorem writeBracketed : Obligations.WriteBracketed := by
  intro s before after v hi
  refine ⟨fun htrace => ?write, fun htrace => ?wren, fun htrace => ?wrdi⟩
  case write =>
    obtain ⟨u, b', ⟨hlegal, p, got, d, hlen, -, hl⟩, hmay, hafter, hb⟩ := before_of_busInv hi (by decide) htrace
    rw [sent_of_wren hlegal ((mayFollow_write u).symm.trans hmay)] at hlen hl
    obtain ⟨w, rfl⟩ := List.length_eq_one_iff.1 hlen
    refine ⟨⟨p, w, d, hl⟩, fun x o w y hxy hsel => ?_⟩
    rw [hxy] at hafter
    exact nextOpcode_of_scan .afterWrite (atOpcode_selected _ _ v) hsel hafter hb
  case wren =>
    obtain ⟨u, b', ⟨hlegal, p, got, d, hlen, hlast, hl⟩, hmay, hafter, hb⟩ := before_of_busInv hi (by decide) htrace
    obtain ⟨hrdsr, hidle⟩ := isIdlePoll_iff.1 ((mayFollow_wren u).symm.trans hmay)
    rw [sent_of_rdsr hlegal hrdsr] at hlen hl
    obtain ⟨w, st, rfl⟩ := List.length_eq_two.1 hlen
    rw [← hlast] at hidle
    refine ⟨⟨p, w, _, st, d, hl, hidle⟩, fun x o w y hxy hsel => ?_⟩
    rw [hxy] at hafter
    exact nextOpcode_of_scan .afterWren (atOpcode_selected _ _ v) hsel hafter hb
  case wrdi =>
    obtain ⟨u, -, ⟨-, p, got, d, hlen, -, hl⟩, hmay, -, -⟩ := before_of_busInv hi (by decide) htrace
    obtain ⟨rest, hsent⟩ := has_iff.1 ((mayFollow_wrdi u).symm.trans hmay)
    rw [hsent] at hlen hl
    obtain ⟨w, got, rfl⟩ := List.exists_cons_of_length_eq_add_one hlen
    exact ⟨p, w, List.zipWith .xfer rest got, d, hl, sel_not_mem_zipWith rest got⟩

end Sys2Proof.Machine
end

section
/-! SUPPORT. The five wire commands, one step at a time: the rows of 44_host_operations R198 from each command's arms, and the frame of a
step, which is what the transport primitives write and, for four of the commands, one register more. -/

namespace Sys2Proof.Machine

variable {s t : State}

/-! ### The rows -/

/-- Settles O8: the four arms of each command, a deselect step being its row once the device answers. -/
theorem writeEnableRows : Obligations.WriteEnableRows := by
  intro s
  refine ⟨fun hp => ?_, fun hp => ?_, fun d hp hd => ?wrenDesel, fun hp => ?_,
    fun hp => ?_, fun hp => ?_, fun d hp hd => ?wrdiDesel, fun hp => ?_⟩
  all_goals simp only [exec, execWren, execWrdi, hp]
  case wrenDesel | wrdiDesel => exact deselectStep_of_deselect hd
  all_goals rfl

/-- Settles O9: the five arms of the command. -/
theorem rdsrRows : Obligations.RdsrRows := by
  intro s
  refine ⟨fun hp => ?_, fun hp => ?_, fun hp => ?_, fun d hp hd => ?desel, fun hp => ?_⟩
  all_goals simp only [exec, execRdsr, hp]
  case desel => exact deselectStep_of_deselect hd
  all_goals rfl

/-- Settles O10: the arms of the command, the data row with a byte for the position and the two ways out of the hold. -/
theorem readRows : Obligations.ReadRows := by
  intro s a m
  refine ⟨fun hp => ?_, fun hp => ?_, fun hp => ?_, fun hp => ?_, fun hp hm hi => ?data, fun d hp hd => ?desel,
    fun hp hi => ?more, fun hp hi => ?done⟩
  all_goals simp only [exec, execRead, hp]
  case data => exact readDataRow_of_fits hm hi
  case desel => exact deselectStep_of_deselect hd
  case more => exact if_pos hi
  case done => exact (if_neg hi.not_lt).trans (if_pos hi)
  all_goals rfl

theorem writeDataRow_cons (b : Byte) (data : List Byte) (hi : s.i < s.n) : writeDataRow (b :: data) s =
    .next { exchange s b with i := s.i + 1, phase := if s.i + 1 < s.n then .wrData else .wrDesel } := if_pos hi

/-- Settles O11: the arms of the command, the data row with a byte to send and one more position left or none. -/
theorem writeRows : Obligations.WriteRows := by
  intro s a b data
  refine ⟨fun hp => ?_, fun hp => ?_, fun hp => ?_, fun hp => ?_, fun hp hi => ?more, fun hp hi => ?last,
    fun d hp hd => ?desel, fun hp => ?_⟩
  all_goals simp only [exec, execWrite, hp]
  case more => rw [writeDataRow_cons b data (by omega), if_pos hi]
  case last => rw [writeDataRow_cons b data (by omega), if_neg hi.not_lt]
  case desel => exact deselectStep_of_deselect hd
  all_goals rfl

/-! ### The frame of a step -/

/-- `t` is `s` but for what the transport primitives write: the phase, the lines, the trace, the environment's inputs and the device,
whose array is the same. -/
def TransportOnly (s t : State) : Prop :=
  ∃ p cs le d tr replies delays draws, d.mem = s.device.mem ∧
    t = { s with phase := p, csSel := cs, linkEn := le, device := d, trace := tr, replies := replies, delays := delays, draws := draws }

theorem transportOnly_refl (s : State) : TransportOnly s s := ⟨_, _, _, _, _, _, _, _, rfl, rfl⟩

theorem exchange_transportOnly (s : State) (o : Byte) : TransportOnly s (exchange s o) := by
  obtain ⟨replies, draws, hdrawn⟩ := exchangeDrawn_eq s o
  exact ⟨_, _, _, _, _, _, _, _, receive_mem _ o, by rw [exchange, hdrawn]⟩

theorem hold_transportOnly (s : State) : TransportOnly s (hold s) := by
  obtain ⟨delays, draws, hdrawn⟩ := delayDrawn_eq s
  exact ⟨_, _, _, _, _, _, _, _, rfl, by rw [hold, hdrawn]⟩

theorem TransportOnly.goto (h : TransportOnly s t) (p : Phase) : TransportOnly s (t.goto p) := by
  obtain ⟨_, _, _, _, _, _, _, _, hmem, rfl⟩ := h
  exact ⟨_, _, _, _, _, _, _, _, hmem, rfl⟩

theorem selectStep_transportOnly {p : Phase} (h : selectStep p s = .next t) : TransportOnly s t := by
  cases h
  exact ⟨_, _, _, _, _, _, _, _, select_mem _, rfl⟩

theorem sendStep_transportOnly {p : Phase} {o : Byte} (h : sendStep o p s = .next t) : TransportOnly s t := by
  cases h
  exact (exchange_transportOnly s o).goto p

theorem holdStep_transportOnly {p : Phase} (h : holdStep p s = .next t) : TransportOnly s t := by
  cases h
  exact (hold_transportOnly s).goto p

theorem deselectStep_transportOnly {p : Phase} (h : deselectStep p s = .next t) : TransportOnly s t := by
  obtain ⟨d, hd, rfl⟩ := deselectStep_cases h
  exact ⟨_, _, _, _, _, _, _, _, deselect_mem hd, rfl⟩

theorem execWren_frame (h : execWren s = .next t) : TransportOnly s t := by
  unfold execWren at h
  split at h
  · exact selectStep_transportOnly h
  · exact sendStep_transportOnly h
  · exact deselectStep_transportOnly h
  · exact holdStep_transportOnly h
  · cases h

/-- WRDI may write `cur` as well. -/
theorem execWrdi_frame (h : execWrdi s = .next t) : ∃ u cur, TransportOnly s u ∧ t = { u with cur := cur } := by
  unfold execWrdi at h
  split at h
  · exact ⟨t, _, selectStep_transportOnly h, rfl⟩
  · exact ⟨t, _, sendStep_transportOnly h, rfl⟩
  · exact ⟨t, _, deselectStep_transportOnly h, rfl⟩
  · cases h
    exact ⟨_, _, (hold_transportOnly s).goto .split, rfl⟩
  · cases h

/-- RDSR may write `sr` as well. -/
theorem execRdsr_frame (h : execRdsr s = .next t) : ∃ u sr, TransportOnly s u ∧ t = { u with sr := sr } := by
  unfold execRdsr at h
  split at h
  · exact ⟨t, _, selectStep_transportOnly h, rfl⟩
  · exact ⟨t, _, sendStep_transportOnly h, rfl⟩
  · cases h
    exact ⟨_, _, (exchange_transportOnly s _).goto .pollDesel, rfl⟩
  · exact ⟨t, _, deselectStep_transportOnly h, rfl⟩
  · exact ⟨t, _, holdStep_transportOnly h, rfl⟩
  · cases h

/-- READ writes `i` and the byte `DST[i]` as well, in S_RD_DATA and nowhere else. -/
theorem execRead_frame {a : Addr} {m : Nat} (h : execRead a m s = .next t) :
    TransportOnly s t ∨
    s.phase = .rdData ∧ ∃ u i b, TransportOnly s u ∧ t = { u with i := i, dst := s.dst.set s.i b } := by
  unfold execRead at h
  split at h
  · exact .inl (selectStep_transportOnly h)
  · exact .inl (sendStep_transportOnly h)
  · exact .inl (sendStep_transportOnly h)
  · exact .inl (sendStep_transportOnly h)
  · rename_i hp
    rcases readDataRow_cases h with ⟨-, rfl⟩ | ⟨-, -, rfl⟩
    · exact .inl (transportOnly_refl t)
    · exact .inr ⟨hp, _, _, _, (exchange_transportOnly s _).goto (if 1 < m then .rdData else .rdDesel), rfl⟩
  · exact .inl (deselectStep_transportOnly h)
  · rcases readHoldRow_cases h with ⟨-, rfl⟩ | ⟨-, rfl⟩ | ⟨-, rfl⟩
    · exact .inl ((hold_transportOnly s).goto .rdSel)
    · exact .inl ((hold_transportOnly s).goto .resp)
    · exact .inl (transportOnly_refl t)
  · cases h

/-- WRITE may write `i` as well. -/
theorem execWrite_frame {a : Addr} {data : List Byte} (h : execWrite a data s = .next t) :
    ∃ u i, TransportOnly s u ∧ t = { u with i := i } := by
  unfold execWrite at h
  split at h
  · exact ⟨t, _, selectStep_transportOnly h, rfl⟩
  · exact ⟨t, _, sendStep_transportOnly h, rfl⟩
  · exact ⟨t, _, sendStep_transportOnly h, rfl⟩
  · cases h
    exact ⟨_, _, (exchange_transportOnly s _).goto .wrData, rfl⟩
  · rcases writeDataRow_cases h with ⟨-, rfl⟩ | ⟨-, b, _, -, rfl⟩
    · exact ⟨t, _, transportOnly_refl t, rfl⟩
    · exact ⟨_, _, (exchange_transportOnly s b).goto (if s.i + 1 < s.n then .wrData else .wrDesel), rfl⟩
  · exact ⟨t, _, deselectStep_transportOnly h, rfl⟩
  · exact ⟨t, _, holdStep_transportOnly h, rfl⟩
  · cases h

/-- Settles O27: the frame of each command's step. -/
theorem wireCommandFrame : Obligations.WireCommandFrame := by
  rintro i s t (rfl | rfl | rfl | ⟨a, m, rfl⟩ | ⟨a, data, rfl⟩) h
  · obtain ⟨_, _, _, _, _, _, _, _, hmem, rfl⟩ := execWren_frame h
    simp [hmem]
  · obtain ⟨_, _, ⟨_, _, _, _, _, _, _, _, hmem, rfl⟩, rfl⟩ := execWrdi_frame h
    simp [hmem]
  · obtain ⟨_, _, ⟨_, _, _, _, _, _, _, _, hmem, rfl⟩, rfl⟩ := execRdsr_frame h
    simp [hmem]
  · rcases execRead_frame h with ⟨_, _, _, _, _, _, _, _, hmem, rfl⟩ | ⟨hp, _, _, b, ⟨_, _, _, _, _, _, _, _, hmem, rfl⟩, rfl⟩
    · simp [hmem]
    · have hdst : ∀ k, k ≠ s.i → (s.dst.set s.i b)[k]? = s.dst[k]? := fun k hk => List.getElem?_set_ne (Ne.symm hk)
      simpa [hmem, hp] using hdst
  · obtain ⟨_, _, ⟨_, _, _, _, _, _, _, _, hmem, rfl⟩, rfl⟩ := execWrite_frame h
    simp [hmem]

end Sys2Proof.Machine
end

section
/-! SUPPORT. The wire commands as whole transactions (41_command_codec R130 to R134): the run of each is a selection, an exchange for every
byte of its frame, a deselection and a hold. Here WREN, WRDI and RDSR, whose frames are of one length. -/

namespace Sys2Proof.Machine

variable {s t : State} {c : Config} {d : Device} {o : Byte} {p q : Phase} {i : Nat} {dst : List Byte}

/-! ### The draws, written out -/

/-- A draw of a byte, written out: the scripted bytes lose their first, or the counter advances. -/
theorem byteDrawn_eq_tail (s : State) :
    s.byteDrawn = { s with replies := s.replies.tail, draws := s.draws + s.replies.isEmpty.toNat } := by
  unfold State.byteDrawn
  split <;> simp [*]

/-- A draw of a delay, written out. -/
theorem delayDrawn_eq_tail (s : State) :
    s.delayDrawn = { s with delays := s.delays.tail, draws := s.draws + s.delays.isEmpty.toNat } := by
  unfold State.delayDrawn
  split <;> simp [*]

/-! ### A run, step by step -/

/-- `s` at another point of a transaction: the phase, the counter and the destination buffer, which no exchange and no hold reads. -/
def State.working (s : State) (p : Phase) (i : Nat) (dst : List Byte) : State := { s with phase := p, i := i, dst := dst }

/-- `s` deselected, the device having become `d`. -/
def State.deselected (s : State) (d : Device) : State :=
  { s with csSel := false, linkEn := false, device := d, trace := s.trace ++ [.desel] }

@[simp] theorem working_schedule (s : State) (p : Phase) (i : Nat) (dst : List Byte) :
    (s.working p i dst).schedule = s.schedule := rfl

@[simp] theorem deselected_schedule (s : State) (d : Device) : (s.deselected d).schedule = s.schedule := rfl

theorem exchange_working (s : State) (o : Byte) (p : Phase) (i : Nat) (dst : List Byte) :
    exchange (s.working p i dst) o = (exchange s o).working p i dst := by
  have hreply : (s.working p i dst).device.reply (s.working p i dst).config o = s.device.reply s.config o := rfl
  cases hr : s.device.reply s.config o <;> simp only [exchange, exchangeDrawn, hreply, hr, byteDrawn_eq_tail] <;> rfl

theorem hold_working (s : State) (p : Phase) (i : Nat) (dst : List Byte) :
    hold (s.working p i dst) = (hold s).working p i dst := by
  simp only [hold, delayDrawn_eq_tail]
  rfl

theorem run_of_controllerStep (hs : s.schedule = []) (h : controllerStep s = .next t) (k : Nat) : run (k + 1) s = run k t := by
  rw [run, step_of_empty_schedule hs, h]

theorem run_select (hs : s.schedule = []) (h : controllerStep s = selectStep p s) (k : Nat) :
    run (k + 1) s = run k ((selectDevice s).working p s.i s.dst) :=
  run_of_controllerStep hs h k

theorem run_send (hs : s.schedule = []) (h : controllerStep (s.working p i dst) = sendStep o q (s.working p i dst)) (k : Nat) :
    run (k + 1) (s.working p i dst) = run k ((exchange s o).working q i dst) := by
  rw [run_of_controllerStep (s := s.working p i dst) hs h, exchange_working]
  rfl

theorem run_deselect (hs : s.schedule = []) (h : controllerStep (s.working p i dst) = deselectStep q (s.working p i dst))
    (hd : s.device.deselect s.config = .ok d) (k : Nat) :
    run (k + 1) (s.working p i dst) = run k ((s.deselected d).working q i dst) :=
  run_of_controllerStep (s := s.working p i dst) hs (h.trans (deselectStep_of_deselect hd)) k

theorem run_hold (hs : s.schedule = []) (h : controllerStep (s.working p i dst) = holdStep q (s.working p i dst)) (k : Nat) :
    run (k + 1) (s.working p i dst) = run k ((hold s).working q i dst) := by
  rw [run_of_controllerStep (s := s.working p i dst) hs h, hold_working]
  rfl

/-! ### The first bytes of a frame -/

/-- The first byte back is any value: no command has been named yet. -/
theorem reply_first (c : Config) (d : Device) (o : Byte) : d.select.reply c o = .any := by
  cases hk : d.kind with
  | arbitrary => simp [Device.reply, hk]
  | reference =>
    have hf := select_frame d hk
    exact reply_any ((select_kind d).trans hk) (by simp [hf]) (by simp [hf]) o

theorem exchange_of_any (h : s.device.reply s.config o = .any) :
    exchange s o = { s.byteDrawn with device := s.device.receive o, trace := s.trace ++ [.xfer o s.anyByte] } := by
  simp [exchange, exchangeDrawn, received_of_any h, h]

/-- The selection and the first exchange of a transaction. -/
theorem exchange_selectDevice (s : State) (o : Byte) :
    exchange (selectDevice s) o =
      { s.byteDrawn with
        csSel := true, linkEn := true, device := s.device.select.receive o, trace := s.trace ++ [.sel, .xfer o s.anyByte] } := by
  rw [exchange_of_any (reply_first s.config s.device o)]
  simp only [byteDrawn_eq_tail, selectDevice, List.append_assoc, List.cons_append, List.nil_append]
  rfl

/-! ### What the device makes of a whole frame -/

theorem receive_reference (hk : d.kind = .reference) (o : Byte) : d.receive o = { d with frame := d.frame ++ [o] } := by
  simp [Device.receive, hk]

theorem receive_arbitrary (hk : d.kind = .arbitrary) (o : Byte) : d.receive o = d := by
  simp [Device.receive, hk]

/-- The reference device holds the bytes it has received since it was selected. -/
theorem foldl_receive_reference (hk : d.kind = .reference) (bytes : List Byte) :
    bytes.foldl Device.receive d.select = { d with frame := bytes } := by
  induction bytes using List.reverseRecOn with
  | nil => simp [Device.select, hk]
  | append_singleton bytes o ih =>
    rw [List.foldl_append, ih, List.foldl_cons, List.foldl_nil, receive_reference (d := { d with frame := bytes }) hk]

theorem foldl_receive_arbitrary (hk : d.kind = .arbitrary) (bytes : List Byte) : bytes.foldl Device.receive d.select = d := by
  induction bytes using List.reverseRecOn with
  | nil => simp [Device.select, hk]
  | append_singleton bytes o ih => rw [List.foldl_append, ih, List.foldl_cons, List.foldl_nil, receive_arbitrary hk]

/-- WREN sets the latch of an idle device, and a busy one rejects it (20_memory R70). -/
theorem deselect_received_wren (c : Config) (hk : d.kind = .reference) :
    (d.select.receive opcodeWren).deselect c = .ok { d with frame := [], wel := d.wel || !d.wip } := by
  refine (congrArg (·.deselect c) (foldl_receive_reference hk [opcodeWren])).trans ?_
  cases hw : d.wip with
  | false => simpa [hw] using deselect_wren (d := { d with frame := [opcodeWren] }) hk rfl hw
  | true => simpa [hw] using deselect_busy (d := { d with frame := [opcodeWren] }) hk rfl hw

/-- WRDI clears the latch of an idle device, and a busy one rejects it (20_memory R70). -/
theorem deselect_received_wrdi (c : Config) (hk : d.kind = .reference) :
    (d.select.receive opcodeWrdi).deselect c = .ok { d with frame := [], wel := d.wel && d.wip } := by
  refine (congrArg (·.deselect c) (foldl_receive_reference hk [opcodeWrdi])).trans ?_
  cases hw : d.wip with
  | false => simpa [hw] using deselect_wrdi (d := { d with frame := [opcodeWrdi] }) hk rfl hw
  | true => simpa [hw] using deselect_busy (d := { d with frame := [opcodeWrdi] }) hk rfl hw

theorem deselect_received_arbitrary (c : Config) (hk : d.kind = .arbitrary) (bytes : List Byte) :
    (bytes.foldl Device.receive d.select).deselect c = .ok d := by
  rw [foldl_receive_arbitrary hk, deselect_arbitrary hk]

/-! ### WREN and WRDI -/

/-- The state after a command of one byte, but for the phase. -/
theorem hold_oneByteCommand (s : State) (o : Byte) (d : Device) :
    hold ((exchange (selectDevice s) o).deselected d) =
      { s.byteDrawn.delayDrawn with
        csSel := false, linkEn := false, device := d,
        trace := s.trace ++ [.sel, .xfer o s.anyByte, .desel, .hold (s.config.tCsdMin + s.byteDrawn.anyDelay)] } := by
  rw [exchange_selectDevice]
  simp only [hold, State.deselected, delayDrawn_eq_tail, byteDrawn_eq_tail, List.append_assoc, List.cons_append, List.nil_append]
  rfl

/-- The four rows of WREN. -/
theorem run_wren (hs : s.schedule = []) (hp : s.phase = .wrenSel)
    (hd : (s.device.select.receive opcodeWren).deselect s.config = .ok d) :
    run 4 s = .next { s.byteDrawn.delayDrawn with
      csSel := false, linkEn := false, phase := .wrSel, device := d,
      trace := s.trace ++ [.sel, .xfer opcodeWren s.anyByte, .desel, .hold (s.config.tCsdMin + s.byteDrawn.anyDelay)] } := by
  rw [run_select hs (row_wrenSel hp), run_send (by simpa) (row_wrenOp rfl), run_deselect (by simpa) (row_wrenDesel rfl) (by simpa),
    run_hold (by simpa) (row_wrenHold rfl), run, hold_oneByteCommand, delayDrawn_eq_tail, byteDrawn_eq_tail]
  rfl

/-- The four rows of WRDI, the last of which also advances `cur`. -/
theorem run_wrdi (hs : s.schedule = []) (hp : s.phase = .wrdiSel)
    (hd : (s.device.select.receive opcodeWrdi).deselect s.config = .ok d) :
    run 4 s = .next { s.byteDrawn.delayDrawn with
      csSel := false, linkEn := false, phase := .split, cur := s.cur + s.n, device := d,
      trace := s.trace ++ [.sel, .xfer opcodeWrdi s.anyByte, .desel, .hold (s.config.tCsdMin + s.byteDrawn.anyDelay)] } := by
  rw [run_select hs (row_wrdiSel hp), run_send (by simpa) (row_wrdiOp rfl), run_deselect (by simpa) (row_wrdiDesel rfl) (by simpa),
    run_of_controllerStep (by simpa) (row_wrdiHold rfl), run, hold_working, hold_oneByteCommand]
  simp [State.working, State.deselected, delayDrawn_eq_tail, byteDrawn_eq_tail]

/-- Settles O13: the run of each command, the device taking its one byte by its kind. -/
theorem writeEnableTransactions : Obligations.WriteEnableTransactions := by
  intro s hs
  refine ⟨fun hp => ?_, fun hp => ?_⟩
  · cases hk : s.device.kind with
    | reference => exact run_wren hs hp (deselect_received_wren s.config hk)
    | arbitrary => exact run_wren hs hp (deselect_received_arbitrary s.config hk [opcodeWren])
  · cases hk : s.device.kind with
    | reference => exact run_wrdi hs hp (deselect_received_wrdi s.config hk)
    | arbitrary => exact run_wrdi hs hp (deselect_received_arbitrary s.config hk [opcodeWrdi])

/-! ### RDSR -/

/-- The frames of RDSR and READ leave the device as it was, whatever its state (20_memory R69). -/
theorem deselect_received_rdsr_or_read (c : Config) (hk : d.kind = .reference) (ho : o = opcodeRdsr ∨ o = opcodeRead)
    (rest : List Byte) : ((o :: rest).foldl Device.receive d.select).deselect c = .ok { d with frame := [] } := by
  rw [foldl_receive_reference hk]
  exact deselect_rdsr_or_read (d := { d with frame := o :: rest }) hk rfl ho

theorem reply_afterRdsr_reference (c : Config) (hk : d.kind = .reference) (o : Byte) :
    (d.select.receive opcodeRdsr).reply c o = .status d.wip := by
  have hreply := reply_rdsr (c := c) (d := d.select.receive opcodeRdsr) (by simpa)
    (by rw [receive_frame _ (by simpa), select_frame _ hk]; rfl) o
  simpa using hreply

theorem reply_arbitrary (c : Config) (hk : d.kind = .arbitrary) (o : Byte) : d.reply c o = .any := by
  simp [Device.reply, hk]

/-- The state in which RDSR's second exchange is made. -/
def rdsrOpcodeSent (s : State) : State := exchange (selectDevice s) opcodeRdsr

/-- The five rows of RDSR, where the second exchange answers `v` from a byte drawn. -/
theorem run_rdsr {v : Byte} (hs : s.schedule = []) (hp : s.phase = .pollSel)
    (hdrawn : exchangeDrawn (rdsrOpcodeSent s) s.config.dummyByte = (rdsrOpcodeSent s).byteDrawn)
    (hv : received (rdsrOpcodeSent s) s.config.dummyByte = v)
    (hd : ([opcodeRdsr, s.config.dummyByte].foldl Device.receive s.device.select).deselect s.config = .ok d) :
    run 5 s = .next { s.byteDrawn.byteDrawn.delayDrawn with
      csSel := false, linkEn := false, phase := .pollTest, sr := v, device := d,
      trace := s.trace ++ [.sel, .xfer opcodeRdsr s.anyByte, .xfer s.config.dummyByte v, .desel,
        .hold (s.config.tCsdMin + s.byteDrawn.byteDrawn.anyDelay)] } := by
  have hs' : (rdsrOpcodeSent s).schedule = [] := by simpa [rdsrOpcodeSent]
  have hc : (rdsrOpcodeSent s).config = s.config := by simp [rdsrOpcodeSent]
  have hx : exchange (rdsrOpcodeSent s) s.config.dummyByte =
      { s.byteDrawn.byteDrawn with
        csSel := true, linkEn := true, device := (s.device.select.receive opcodeRdsr).receive s.config.dummyByte,
        trace := s.trace ++ [.sel, .xfer opcodeRdsr s.anyByte, .xfer s.config.dummyByte v] } := by
    rw [exchange, hv, hdrawn, rdsrOpcodeSent, exchange_selectDevice]
    simp only [byteDrawn_eq_tail, List.append_assoc, List.cons_append, List.nil_append]
  calc run 5 s = run 3 ((rdsrOpcodeSent s).working .pollDummy s.i s.dst) := by
        rw [run_select hs (row_pollSel hp), run_send (by simpa) (row_pollOp rfl), rdsrOpcodeSent]
    _ = run 2 (State.working { exchange (rdsrOpcodeSent s) s.config.dummyByte with sr := v } .pollDesel s.i s.dst) := by
        rw [run_of_controllerStep (by simpa) (row_pollDummy rfl), exchange_working, ← hv, ← hc]
        rfl
    _ = _ := by
        rw [hx, run_deselect (by simpa) (row_pollDesel rfl) (by simpa), run_hold (by simpa) (row_pollHold rfl), run]
        simp only [hold, State.deselected, delayDrawn_eq_tail, byteDrawn_eq_tail, List.append_assoc, List.cons_append,
          List.nil_append]
        rfl

/-- Settles O14: the reference device answers WIP in bit 0, any other device what it likes, and either draws a byte for it. -/
theorem rdsrTransaction : Obligations.RdsrTransaction := by
  intro s hp hs
  have hdevice : (rdsrOpcodeSent s).device = s.device.select.receive opcodeRdsr := rfl
  have hany : (rdsrOpcodeSent s).anyByte = s.byteDrawn.anyByte := by
    rw [rdsrOpcodeSent, exchange_selectDevice]
    rfl
  cases hk : s.device.kind with
  | reference =>
    have hreply : (rdsrOpcodeSent s).device.reply (rdsrOpcodeSent s).config s.config.dummyByte = .status s.device.wip :=
      hdevice ▸ reply_afterRdsr_reference _ hk _
    have hv := received_of_status hreply
    rw [hany] at hv
    refine ⟨_, fun _ => ⟨rfl, statusBusy_statusByte _ _⟩, nofun, ?_⟩
    exact run_rdsr hs hp (by rw [exchangeDrawn, hreply]) hv (deselect_received_rdsr_or_read _ hk (.inl rfl) _)
  | arbitrary =>
    have hreply : (rdsrOpcodeSent s).device.reply (rdsrOpcodeSent s).config s.config.dummyByte = .any :=
      hdevice ▸ reply_arbitrary _ (by simpa) _
    refine ⟨_, nofun, fun _ => rfl, ?_⟩
    exact run_rdsr hs hp (by rw [exchangeDrawn, hreply]) ((received_of_any hreply).trans hany)
      (deselect_received_arbitrary _ hk [opcodeRdsr, s.config.dummyByte])

end Sys2Proof.Machine
end

section
/-! SUPPORT. READ and WRITE as whole transactions (41_command_codec R133, R134): frames of any length, the data phases that send them, and
what the device answers and takes. -/

namespace Sys2Proof.Machine

variable {s : State} {d : Device} {o : Byte} {p : Phase} {i : Nat} {dst : List Byte}

/-! ### Frames of any length -/

/-- The bytes that come back while `bytes` are sent one after the other. -/
def receivedAll (s : State) : List Byte → List Byte
  | [] => []
  | o :: rest => received s o :: receivedAll (exchange s o) rest

@[simp] theorem length_receivedAll (s : State) (bytes : List Byte) : (receivedAll s bytes).length = bytes.length := by
  induction bytes generalizing s with
  | nil => rfl
  | cons o rest ih => rw [receivedAll, List.length_cons, ih, List.length_cons]

/-- What is left of `bytes` sent one after the other: the device has received them, and the trace has them with what came back. -/
theorem foldl_exchange_eq (s : State) (bytes : List Byte) : ∃ replies draws, bytes.foldl exchange s =
    { s with
      device := bytes.foldl Device.receive s.device, trace := s.trace ++ List.zipWith .xfer bytes (receivedAll s bytes),
      replies := replies, draws := draws } := by
  induction bytes generalizing s with
  | nil => exact ⟨s.replies, s.draws, by simp⟩
  | cons o rest ih =>
    obtain ⟨replies, draws, hrest⟩ := ih (exchange s o)
    refine ⟨replies, draws, ?_⟩
    rw [List.foldl_cons, hrest]
    simp [receivedAll]

@[simp] theorem foldl_exchange_config (s : State) (bytes : List Byte) : (bytes.foldl exchange s).config = s.config := by
  obtain ⟨_, _, h⟩ := foldl_exchange_eq s bytes
  rw [h]

@[simp] theorem foldl_exchange_A (s : State) (bytes : List Byte) : (bytes.foldl exchange s).A = s.A := by
  obtain ⟨_, _, h⟩ := foldl_exchange_eq s bytes
  rw [h]

@[simp] theorem foldl_exchange_N (s : State) (bytes : List Byte) : (bytes.foldl exchange s).N = s.N := by
  obtain ⟨_, _, h⟩ := foldl_exchange_eq s bytes
  rw [h]

@[simp] theorem foldl_exchange_cur (s : State) (bytes : List Byte) : (bytes.foldl exchange s).cur = s.cur := by
  obtain ⟨_, _, h⟩ := foldl_exchange_eq s bytes
  rw [h]

@[simp] theorem foldl_exchange_n (s : State) (bytes : List Byte) : (bytes.foldl exchange s).n = s.n := by
  obtain ⟨_, _, h⟩ := foldl_exchange_eq s bytes
  rw [h]

@[simp] theorem foldl_exchange_src (s : State) (bytes : List Byte) : (bytes.foldl exchange s).src = s.src := by
  obtain ⟨_, _, h⟩ := foldl_exchange_eq s bytes
  rw [h]

@[simp] theorem foldl_exchange_schedule (s : State) (bytes : List Byte) : (bytes.foldl exchange s).schedule = s.schedule := by
  obtain ⟨_, _, h⟩ := foldl_exchange_eq s bytes
  rw [h]

@[simp] theorem foldl_exchange_device (s : State) (bytes : List Byte) :
    (bytes.foldl exchange s).device = bytes.foldl Device.receive s.device := by
  obtain ⟨_, _, h⟩ := foldl_exchange_eq s bytes
  rw [h]

/-- A whole transaction leaves `tx` of its frame in the trace, the device that took the frame, and the environment's inputs. -/
theorem hold_transaction_eq (s : State) (bytes : List Byte) (d : Device) : ∃ dur replies delays draws, s.config.tCsdMin ≤ dur ∧
    hold ((bytes.foldl exchange (selectDevice s)).deselected d) =
      { s with
        csSel := false, linkEn := false, device := d, trace := s.trace ++ tx bytes (receivedAll (selectDevice s) bytes) dur,
        replies := replies, delays := delays, draws := draws } := by
  obtain ⟨replies, _, hx⟩ := foldl_exchange_eq (selectDevice s) bytes
  obtain ⟨-, -, -, delays, draws, dur, hdur, hhold⟩ :=
    transportPrimitives ((bytes.foldl exchange (selectDevice s)).deselected d)
  refine ⟨dur, replies, delays, draws, by simpa [State.deselected] using hdur, ?_⟩
  rw [hhold, hx]
  simp [State.deselected, tx]

/-! ### READ -/

/-- While an idle device is read it answers the bytes of its array, one after the other (20_memory R69). -/
theorem receivedAll_read {h l : Byte} {more : List Byte} {m k : Nat} (hk : s.device.kind = .reference)
    (hf : s.device.frame = opcodeRead :: h :: l :: more) (hw : s.device.wip = false)
    (ha : (joinAddr h l).toNat + more.length + m ≤ s.config.maxAddress) (hm : k < m) (o : Byte) :
    (receivedAll s (List.replicate m o))[k]? = some (s.device.mem.read ((joinAddr h l).toNat + more.length + k)) := by
  induction m generalizing s more k with
  | zero => omega
  | succ m ih =>
    rw [List.replicate_succ, receivedAll]
    cases k with
    | zero =>
      rw [List.getElem?_cons_zero, received_of_stored (reply_read hk hf hw (by omega) o), Nat.add_zero]
    | succ k =>
      have hnext := ih (s := exchange s o) (more := more ++ [o]) (k := k) (by simpa) (by simp [receive_frame _ hk, hf]) (by simpa)
        (by simp; omega) (by omega)
      rw [List.getElem?_cons_succ, hnext]
      simp [Nat.add_assoc, Nat.add_comm 1 k]

theorem run_readByte (hs : s.schedule = []) (hm : 1 ≤ pendingPositions (s.working .rdData i dst)) (hi : i < dst.length) (k : Nat) :
    run (k + 1) (s.working .rdData i dst) =
      run k ((exchange s s.config.dummyByte).working
        (if 1 < pendingPositions (s.working .rdData i dst) then .rdData else .rdDesel) (i + 1)
        (dst.set i (received s s.config.dummyByte))) := by
  have hrow := (row_rdData (s := s.working .rdData i dst) rfl).trans (readDataRow_of_fits hm hi)
  rw [run_of_controllerStep (s := s.working .rdData i dst) hs hrow, exchange_working]
  rfl

/-- A position fewer is to come once one is behind it. -/
theorem pendingPositions_next {m : Nat} (h : pendingPositions (s.working p i dst) = m + 2) (dst' : List Byte) :
    pendingPositions ((exchange s o).working p (i + 1) dst') = m + 1 := by
  unfold pendingPositions at h ⊢
  simp only [State.working, exchange_config, exchange_N] at h ⊢
  cases hf : s.config.readFraming <;> simp only [hf] at h ⊢ <;> omega

/-- The buffer after one byte at `i` and then `got` behind it. -/
theorem stored_cons (dst : List Byte) (b : Byte) (got : List Byte) {j : Nat} (hi : i < dst.length) (hj : i < j) :
    (dst.set i b).take (i + 1) ++ got ++ (dst.set i b).drop j = dst.take i ++ b :: got ++ dst.drop j := by
  have htake : (dst.set i b).take (i + 1) = dst.take i ++ [b] := by
    rw [List.take_add_one, List.take_set_of_le (Nat.le_refl i), List.getElem?_set_self hi]
    rfl
  rw [htake, List.drop_set_of_lt hj]
  simp

/-- With `m` positions to come and a byte for each in the buffer, S_RD_DATA takes `m` steps. -/
theorem run_readData {m : Nat} (hs : s.schedule = []) (hpos : pendingPositions (s.working .rdData i dst) = m + 1)
    (hfit : i + (m + 1) ≤ dst.length) (k : Nat) :
    run (k + (m + 1)) (s.working .rdData i dst) =
      run k (((List.replicate (m + 1) s.config.dummyByte).foldl exchange s).working .rdDesel (i + (m + 1))
        (dst.take i ++ receivedAll s (List.replicate (m + 1) s.config.dummyByte) ++ dst.drop (i + (m + 1)))) := by
  induction m generalizing s i dst with
  | zero =>
    have hstored := stored_cons dst (received s s.config.dummyByte) [] (show i < dst.length by omega) (Nat.lt_add_one i)
    rw [List.append_nil, List.take_append_drop] at hstored
    rw [run_readByte hs (by omega) (by omega), if_neg (by omega), hstored]
    rfl
  | succ m ih =>
    rw [← Nat.add_assoc k, run_readByte hs (by omega) (by omega), if_pos (by omega),
      ih (by simpa) (pendingPositions_next hpos _) (by simp; omega), exchange_config, stored_cons _ _ _ (by omega) (by omega),
      List.replicate_succ (n := m + 1), List.foldl_cons, receivedAll, Nat.add_right_comm i 1 (m + 1), Nat.add_assoc i (m + 1) 1]

theorem readHoldRow_of_le (h : s.i ≤ s.N) : readHoldRow s = holdStep (if s.i < s.N then .rdSel else .resp) s := by
  unfold readHoldRow
  split
  · rfl
  · exact if_pos (by omega)

/-- The state that READ's address bytes leave, but for the phase. -/
def readAddressSent (s : State) : State :=
  (readFrame s.config (addressField (s.A + s.i)) 0).foldl exchange (selectDevice s)

/-- The rows of READ up to the data phase. -/
theorem run_readAddress (hs : s.schedule = []) (hp : s.phase = .rdSel) (k : Nat) :
    run (k + 4) s = run k ((readAddressSent s).working .rdData s.i s.dst) := by
  rw [run_select hs (row_rdSel hp), run_send (by simpa) (row_rdOp rfl), run_send (by simpa) (row_rdAh rfl),
    run_send (by simpa) (row_rdAl rfl)]
  simp [State.working, readFrame, readAddressSent]

/-- The rows of READ for `m + 1` positions. -/
theorem run_read {m : Nat} (hs : s.schedule = []) (hp : s.phase = .rdSel) (hpos : pendingPositions s = m + 1)
    (hN : s.i + (m + 1) ≤ s.N) (hfit : s.i + (m + 1) ≤ s.dst.length)
    (hd : ((readFrame s.config (addressField (s.A + s.i)) (m + 1)).foldl Device.receive s.device.select).deselect s.config = .ok d) :
    run (m + 1 + 6) s = .next (State.working
      (hold (((readFrame s.config (addressField (s.A + s.i)) (m + 1)).foldl exchange (selectDevice s)).deselected d))
      (if s.i + (m + 1) < s.N then .rdSel else .resp) (s.i + (m + 1))
      (s.dst.take s.i ++ receivedAll (readAddressSent s) (List.replicate (m + 1) s.config.dummyByte) ++
        s.dst.drop (s.i + (m + 1)))) := by
  have hc : (readAddressSent s).config = s.config := by simp [readAddressSent]
  have hNu : (readAddressSent s).N = s.N := by simp [readAddressSent]
  have hframe : (List.replicate (m + 1) s.config.dummyByte).foldl exchange (readAddressSent s) =
      (readFrame s.config (addressField (s.A + s.i)) (m + 1)).foldl exchange (selectDevice s) := by
    rw [readAddressSent, ← List.foldl_append]
    rfl
  have hpos' : pendingPositions ((readAddressSent s).working .rdData s.i s.dst) = m + 1 := by
    simpa [pendingPositions, State.working, hc, hNu] using hpos
  rw [show m + 1 + 6 = 2 + (m + 1) + 4 by omega, run_readAddress hs hp, run_readData (by simpa [readAddressSent]) hpos' hfit, hc,
    hframe, run_deselect (d := d) (by simpa) (row_rdDesel rfl) (by simpa),
    run_hold (by simpa) ((row_rdHold rfl).trans (readHoldRow_of_le (by simpa [State.working, State.deselected]))), run]
  simp [State.working, State.deselected]

/-- The device once a frame that stores nothing in it is over. -/
def Device.frameOver (d : Device) : Device :=
  match d.kind with
  | .reference => { d with frame := [] }
  | .arbitrary => d

theorem deselect_readFrame (c c' : Config) (d : Device) (a : Addr) (m : Nat) :
    ((readFrame c a m).foldl Device.receive d.select).deselect c' = .ok d.frameOver := by
  cases hk : d.kind with
  | reference =>
    rw [show d.frameOver = { d with frame := [] } by simp [Device.frameOver, hk]]
    exact deselect_received_rdsr_or_read c' hk (.inr rfl) _
  | arbitrary =>
    rw [show d.frameOver = d by simp [Device.frameOver, hk]]
    exact deselect_received_arbitrary c' hk _

/-- What comes back in a READ: a byte for each of the first three, then the data. -/
theorem receivedAll_readFrame (s : State) (m : Nat) : ∃ g0 g1 g2,
    receivedAll (selectDevice s) (readFrame s.config (addressField (s.A + s.i)) m) =
      g0 :: g1 :: g2 :: receivedAll (readAddressSent s) (List.replicate m s.config.dummyByte) :=
  ⟨_, _, _, rfl⟩

/-- In a READ that lies in the array, an idle reference device answers the array's bytes. -/
theorem receivedAll_readAddressSent {m k : Nat} (hk : s.device.kind = .reference) (hw : s.device.wip = false)
    (ha : s.A + s.i + m ≤ s.config.maxAddress) (hm : k < m) (o : Byte) :
    (receivedAll (readAddressSent s) (List.replicate m o))[k]? = some (s.device.mem.read (s.A + s.i + k)) := by
  have hdevice : (readAddressSent s).device =
      { s.device with frame := readFrame s.config (addressField (s.A + s.i)) 0 } := by
    rw [readAddressSent, foldl_exchange_device, selectDevice_device, foldl_receive_reference hk]
  have haddr : (joinAddr (hi8 (addressField (s.A + s.i))) (lo8 (addressField (s.A + s.i)))).toNat = s.A + s.i := by
    have := maxAddress_le s.config
    rw [joinAddr_hi8_lo8, addressField_toNat (by omega)]
  have hc : (readAddressSent s).config = s.config := by simp [readAddressSent]
  have hread := receivedAll_read (s := readAddressSent s) (more := []) (m := m) (k := k) (by rw [hdevice]; exact hk)
    (by rw [hdevice]; rfl) (by rw [hdevice]; exact hw) (by rw [haddr, hc]; exact ha) hm o
  rw [hread, haddr, hdevice]
  rfl

/-- Settles O15: the rows of READ, whose response positions the array of an idle device answers. -/
theorem readTransaction : Obligations.ReadTransaction := by
  rintro s m hp hs hi rfl hfit
  refine ⟨fun hf => by simp [pendingPositions, hf], fun hf => by simp [pendingPositions, hf], ?_⟩
  obtain ⟨m, hpos, hN⟩ : ∃ m, pendingPositions s = m + 1 ∧ s.i + (m + 1) ≤ s.N := by
    cases hf : s.config.readFraming with
    | burst => exact ⟨s.N - s.i - 1, by simp only [pendingPositions, hf]; omega, by omega⟩
    | perByte => exact ⟨0, by simp only [pendingPositions, hf], hi⟩
  rw [hpos] at hfit ⊢
  obtain ⟨dur, replies, delays, draws, hdur, hhold⟩ :=
    hold_transaction_eq s (readFrame s.config (addressField (s.A + s.i)) (m + 1)) s.device.frameOver
  obtain ⟨g0, g1, g2, hgot⟩ := receivedAll_readFrame s (m + 1)
  refine ⟨g0, g1, g2, _, dur, replies, delays, draws, ?_, hdur,
    fun hk hw ha k hm => receivedAll_readAddressSent hk hw ha hm s.config.dummyByte, ?_⟩
  · rw [length_receivedAll, List.length_replicate]
  rw [run_read hs hp hpos hN hfit (deselect_readFrame _ _ _ _ _), hhold, hgot]
  rfl

/-! ### WRITE -/

theorem run_writeByte {b : Byte} (hs : s.schedule = []) (hi : i < s.n) (hb : memReadSrc s (s.cur - s.A + i) = some b) (k : Nat) :
    run (k + 1) (s.working .wrData i dst) =
      run k ((exchange s b).working (if i + 1 < s.n then .wrData else .wrDesel) (i + 1) dst) := by
  have hrow := row_wrData_of_src (s := s.working .wrData i dst) rfl hi hb
  rw [run_of_controllerStep (s := s.working .wrData i dst) hs hrow, exchange_working]
  rfl

/-- With the bytes of `data` still to be sent, S_WR_DATA takes a step for each. -/
theorem run_writeData {b : Byte} {data : List Byte} (hs : s.schedule = []) (hi : i + (data.length + 1) = s.n)
    (hsrc : ∀ j, j ≤ data.length → memReadSrc s (s.cur - s.A + (i + j)) = (b :: data)[j]?) (k : Nat) :
    run (k + (data.length + 1)) (s.working .wrData i dst) =
      run k (((b :: data).foldl exchange s).working .wrDesel s.n dst) := by
  induction data generalizing s i b with
  | nil =>
    have hb : memReadSrc s (s.cur - s.A + i) = some b := hsrc 0 (Nat.zero_le _)
    rw [List.length_nil] at hi ⊢
    rw [run_writeByte hs (by omega) hb, if_neg (by omega), hi]
    rfl
  | cons b' data ih =>
    have hb : memReadSrc s (s.cur - s.A + i) = some b := hsrc 0 (Nat.zero_le _)
    have hnext : ∀ j, j ≤ data.length → memReadSrc (exchange s b) ((exchange s b).cur - (exchange s b).A + (i + 1 + j)) =
        (b' :: data)[j]? := fun j hj => by
      simpa [memReadSrc, Nat.add_comm 1 j, Nat.add_assoc] using hsrc (j + 1) (Nat.succ_le_succ hj)
    rw [List.length_cons] at hi ⊢
    rw [← Nat.add_assoc k, run_writeByte hs (by omega) hb, if_pos (by omega), ih (by simpa) (by simp; omega) hnext, exchange_n]
    rfl

/-- The state that WRITE's address bytes leave, but for the phase and the counter. -/
def writeAddressSent (s : State) : State := (writeFrame (addressField s.cur) []).foldl exchange (selectDevice s)

/-- The rows of WRITE up to the data phase. -/
theorem run_writeAddress (hs : s.schedule = []) (hp : s.phase = .wrSel) (k : Nat) :
    run (k + 4) s = run k ((writeAddressSent s).working .wrData 0 s.dst) := by
  rw [run_select hs (row_wrSel hp), run_send (by simpa) (row_wrOp rfl), run_send (by simpa) (row_wrAh rfl),
    run_of_controllerStep (by simpa) (row_wrAl rfl), exchange_working]
  simp [State.working, writeFrame, writeAddressSent]

theorem memReadSrc_chunkData {j : Nat} (hj : j < s.n) : memReadSrc s (s.cur - s.A + j) = (chunkData s)[j]? := by
  simp [chunkData, memReadSrc, hj]

/-- The rows of WRITE for the chunk, all of which the source buffer has. -/
theorem run_write (hs : s.schedule = []) (hp : s.phase = .wrSel) (hn : 1 ≤ s.n) (hlen : (chunkData s).length = s.n)
    (hd : ((writeFrame (addressField s.cur) (chunkData s)).foldl Device.receive s.device.select).deselect s.config = .ok d) :
    run (s.n + 6) s = .next (State.working
      (hold (((writeFrame (addressField s.cur) (chunkData s)).foldl exchange (selectDevice s)).deselected d))
      .wrdiSel s.n s.dst) := by
  obtain ⟨b, rest, hdata⟩ := List.exists_cons_of_length_pos (hlen ▸ hn)
  rw [hdata] at hlen hd ⊢
  rw [List.length_cons] at hlen
  have hsrc : (writeAddressSent s).src = s.src := by simp [writeAddressSent]
  have hcur : (writeAddressSent s).cur = s.cur := by simp [writeAddressSent]
  have hA : (writeAddressSent s).A = s.A := by simp [writeAddressSent]
  have hbytes : ∀ j, j ≤ rest.length → memReadSrc (writeAddressSent s)
      ((writeAddressSent s).cur - (writeAddressSent s).A + (0 + j)) = (b :: rest)[j]? := fun j hj => by
    rw [memReadSrc, hsrc, hcur, hA, Nat.zero_add, ← hdata]
    exact memReadSrc_chunkData (by omega)
  have hframe : (b :: rest).foldl exchange (writeAddressSent s) =
      (writeFrame (addressField s.cur) (b :: rest)).foldl exchange (selectDevice s) := by
    rw [writeAddressSent, ← List.foldl_append]
    rfl
  rw [show s.n + 6 = 2 + (rest.length + 1) + 4 by omega, run_writeAddress hs hp,
    run_writeData (by simpa [writeAddressSent]) (by simpa [writeAddressSent]) hbytes, hframe,
    run_deselect (d := d) (by simpa) (row_wrDesel rfl) (by simpa), run_hold (by simpa) (row_wrHold rfl), run]
  simp [writeAddressSent]

/-- The run of a WRITE written out, `d` being what the device makes of its frame. -/
theorem run_write_eq (hs : s.schedule = []) (hp : s.phase = .wrSel) (hn : 1 ≤ s.n) (hlen : (chunkData s).length = s.n)
    (hd : ((writeFrame (addressField s.cur) (chunkData s)).foldl Device.receive s.device.select).deselect s.config = .ok d) :
    ∃ got dur replies delays draws, got.length = 3 + s.n ∧ s.config.tCsdMin ≤ dur ∧
      run (s.n + 6) s = .next { s with
        csSel := false, linkEn := false, i := s.n, phase := .wrdiSel, device := d,
        trace := s.trace ++ tx (writeFrame (addressField s.cur) (chunkData s)) got dur,
        replies := replies, delays := delays, draws := draws } := by
  obtain ⟨dur, replies, delays, draws, hdur, hhold⟩ := hold_transaction_eq s (writeFrame (addressField s.cur) (chunkData s)) d
  refine ⟨receivedAll (selectDevice s) (writeFrame (addressField s.cur) (chunkData s)), dur, replies, delays, draws, ?_, hdur, ?_⟩
  · simp [writeFrame, hlen, Nat.add_comm 3]
  · rw [run_write hs hp hn hlen hd, hhold]
    rfl

/-- The chunk keeps the device's rules: it lies in one page of the array. -/
theorem writeAccepted_chunkData (hch : ChunkInv s) (hr : InRange s) (hlen : (chunkData s).length = s.n) :
    writeAccepted s.config (addressField s.cur).toNat (chunkData s).length = true := by
  rw [addressField_cur hch hr, hlen]
  obtain ⟨-, hmax, -⟩ := hr
  obtain ⟨-, -, hn, hpage, hend⟩ := hch
  exact writeAccepted_of_le_toPageEnd _ _ _ hn hpage (hend.trans hmax)

/-- An idle device with its latch set takes a WRITE frame that keeps the rules, and any other device leaves it. -/
theorem deselect_writeFrame (c : Config) {a : Addr} {data : List Byte} (hk : d.kind = .reference)
    (ha : writeAccepted c a.toNat data.length = true) :
    ((writeFrame a data).foldl Device.receive d.select).deselect c = .ok
      (if d.wip = false ∧ d.wel = true then { d with frame := [], pend := cellsFrom a.toNat data, wip := true }
        else { d with frame := [] }) := by
  rw [foldl_receive_reference hk]
  split
  case isTrue h =>
    obtain ⟨hw, hl⟩ := h
    have htake := deselect_write (c := c) (d := { d with frame := writeFrame a data }) hk rfl hw hl
      (by rwa [joinAddr_hi8_lo8])
    rwa [joinAddr_hi8_lo8] at htake
  case isFalse h =>
    rcases Bool.eq_false_or_eq_true d.wip with hw | hw
    · exact deselect_busy (d := { d with frame := writeFrame a data }) hk rfl hw
    · exact deselect_write_ignored (d := { d with frame := writeFrame a data }) hk rfl hw (by simpa [hw] using h)

/-- Settles O16: the rows of WRITE, whose frame keeps the device's rules by the register invariant. -/
theorem writeTransaction : Obligations.WriteTransaction := by
  rintro s data hp hs ⟨-, -, hi⟩ hsrc rfl
  simp only [PhaseInv, hp] at hi
  obtain ⟨hr, hch⟩ := hi
  have hlen : (chunkData s).length = s.n := by
    simp only [chunkData, List.length_take, List.length_drop]
    omega
  have hn : 1 ≤ s.n := by
    obtain ⟨-, -, hn, -⟩ := hch
    exact hn
  cases hk : s.device.kind with
  | reference =>
    have hd := deselect_writeFrame s.config hk (writeAccepted_chunkData hch hr hlen)
    rw [addressField_cur hch hr] at hd
    exact run_write_eq hs hp hn hlen hd
  | arbitrary => exact run_write_eq hs hp hn hlen (deselect_received_arbitrary s.config hk _)

end Sys2Proof.Machine
end

section
/-! SUPPORT. The status poller (42_status_poller R160 to R162): the test of a status byte by its bit 0, one poll against scripted
bytes, and the loop that polls until a byte has bit 0 clear. -/

namespace Sys2Proof.Machine

variable {s t : State} {x y : Byte} {more : List Byte}

/-! ### The test of the status byte -/

theorem statusBusy_eq_odd (v : Byte) : statusBusy v = decide (v.toNat % 2 = 1) := by
  rw [statusBusy, BitVec.getLsbD, Nat.testBit_zero]

theorem pollTestRow_of_busy (h : statusBusy s.sr = true) : pollTestRow s = .next (s.goto .pollSel) := by
  simp [pollTestRow, h]

/-- Where the sequencer goes from a poll that sees the device idle (44_host_operations R198). -/
def phaseAfterPoll (s : State) : Phase :=
  match s.op with
  | .write => .wrenSel
  | .read => if s.N = 0 then .resp else .rdSel

/-- Bit 0 clear: on to what the poll was for; only a read with bytes to fetch clears `i`. -/
theorem pollTestRow_of_idle (h : statusBusy s.sr = false) :
    ∃ i, pollTestRow s = .next { s with i := i, phase := phaseAfterPoll s } := by
  obtain ⟨t, ht⟩ := pollTestRow_total s
  rcases pollTestRow_cases ht with ⟨hb, -⟩ | ⟨-, hop, rfl⟩ | ⟨-, hop, hN, rfl⟩ | ⟨-, hop, hN, rfl⟩
  · simp [h] at hb
  · exact ⟨s.i, by simp [ht, phaseAfterPoll, hop, State.goto]⟩
  · exact ⟨s.i, by simp [ht, phaseAfterPoll, hop, hN, State.goto]⟩
  · exact ⟨0, by simp [ht, phaseAfterPoll, hop, hN]⟩

theorem phaseAfterPoll_ne_pollSel (s : State) : phaseAfterPoll s ≠ .pollSel := by
  unfold phaseAfterPoll
  split
  · simp
  · split <;> simp

/-- A status byte with the same bit 0 takes the test the same way. -/
theorem pollTestRow_of_statusBusy_eq {v : Byte} (hv : statusBusy v = statusBusy s.sr) (h : pollTestRow s = .next t) :
    pollTestRow { s with sr := v } = .next { t with sr := v } := by
  rcases pollTestRow_cases h with ⟨hb, rfl⟩ | ⟨hb, hop, rfl⟩ | ⟨hb, hop, hN, rfl⟩ | ⟨hb, hop, hN, rfl⟩
  · exact pollTestRow_of_busy (hv.trans hb)
  all_goals simp [pollTestRow, State.goto, *]

/-- Settles O26: bit 0 is the parity of the byte, and the test's row reads nothing else of it. -/
theorem onlyBitZeroCounts : Obligations.OnlyBitZeroCounts := by
  refine ⟨statusBusy_eq_odd, fun s t v _ hp hv => ?_⟩
  obtain ⟨u, hu⟩ := pollTestRow_total t
  refine ⟨u, (row_pollTest hp).trans hu, (row_pollTest (s := { t with sr := v }) hp).trans (pollTestRow_of_statusBusy_eq hv hu),
    fun hb => ?_, fun hb => ?_⟩
  · rw [pollTestRow_of_busy hb] at hu
    cases hu
    rfl
  · obtain ⟨i, hi⟩ := pollTestRow_of_idle hb
    rw [hi] at hu
    cases hu
    exact phaseAfterPoll_ne_pollSel t

/-! ### One poll -/

/-- A run cut after its first `k` steps. -/
theorem run_add {k : Nat} (h : run k s = .next t) (m : Nat) : run (k + m) s = run m t := by
  induction k generalizing s with
  | zero =>
    cases h
    rw [Nat.zero_add]
  | succ k ih =>
    rw [run] at h
    rw [Nat.succ_add, run]
    cases hu : step s with
    | next u =>
      rw [hu] at h
      exact ih h
    | fault f => simp [hu] at h
    | refused r => simp [hu] at h

/-- `s` with a poll behind it that has received `y` and put `tr` on the bus, the environment's inputs drawn from. -/
def State.polled (s : State) (y : Byte) (tr : List Event) (more : List Byte) (delays : List Nat) (draws : Nat) : State :=
  { s with
    csSel := false, linkEn := false, sr := y, trace := s.trace ++ tr, replies := more, delays := delays, draws := draws }

/-- Six steps against a device that answers with scripted bytes: one RDSR transaction, then the test of the second byte. -/
theorem run_poll (hp : s.phase = .pollSel) (hs : s.schedule = []) (hk : s.device.kind = .arbitrary)
    (hr : s.replies = x :: y :: more) :
    ∃ tr delays draws, IsRdsr s.config y tr ∧
      run 6 s = pollTestRow ((s.polled y tr more delays draws).goto .pollTest) := by
  have hdrawn : s.byteDrawn.byteDrawn = { s with replies := more } := by simp [State.byteDrawn, hr]
  obtain ⟨delays, draws, hdelay⟩ := delayDrawn_eq { s with replies := more }
  obtain ⟨v, -, hv, hrun⟩ := rdsrTransaction s hp hs
  obtain rfl : v = y := by simp [hv hk, State.anyByte, State.byteDrawn, hr]
  rw [hdrawn, hdelay] at hrun
  refine ⟨tx [opcodeRdsr, s.config.dummyByte] [s.anyByte, v] (s.config.tCsdMin + State.anyDelay { s with replies := more }),
    delays, draws, ⟨_, _, Nat.le_add_right .., rfl⟩, ?_⟩
  rw [run_add hrun 1, run_succ rfl, step_of_empty_schedule (by simpa), row_pollTest rfl]
  simp only [hk]
  rfl

theorem countP_sel_of_isRdsr {c : Config} {tr : List Event} (h : IsRdsr c y tr) : tr.countP (fun e => decide (e = .sel)) = 1 := by
  obtain ⟨v, d, -, rfl⟩ := h
  simp [tx]

/-- Settles O17, by induction on the status bytes with bit 0 set: each is one poll that ends where it began. -/
theorem awaitIdlePolls : Obligations.AwaitIdlePolls := by
  intro s busy x y more hp hs hk hbusy hy hr
  induction busy generalizing s with
  | nil =>
    obtain ⟨tr, delays, draws, htr, hrun⟩ := run_poll hp hs hk hr
    obtain ⟨i, hi⟩ := pollTestRow_of_idle (s := (s.polled y tr more delays draws).goto .pollTest) hy
    exact ⟨_, tr, hrun.trans hi, rfl, rfl, rfl, .seen y tr htr hy, countP_sel_of_isRdsr htr, rfl⟩
  | cons p busy ih =>
    obtain ⟨hpb, hbusy⟩ := List.forall_mem_cons.1 hbusy
    obtain ⟨poll, delays, draws, hpoll, hrun⟩ := run_poll hp hs hk hr
    have hagain := hrun.trans (pollTestRow_of_busy hpb)
    obtain ⟨t, tr, ht, hsr, hmore, htrace, hidle, hcount, hphase⟩ :=
      ih (((s.polled p.2 poll _ delays draws).goto .pollTest).goto .pollSel) rfl hs hk hbusy rfl
    refine ⟨t, poll ++ tr, ?_, hsr, hmore, ?_, .again p.2 poll tr hpoll hpb hidle, ?_, hphase⟩
    · rw [List.length_cons, Nat.mul_succ, Nat.add_comm, run_add hagain]
      exact ht
    · rw [htrace]
      exact List.append_assoc ..
    · rw [List.countP_append, countP_sel_of_isRdsr hpoll, hcount, List.length_cons]
      omega

end Sys2Proof.Machine
end

section
/-! SUPPORT. The chunks of a request (43_page_write_splitter R171): the recursion as an induction principle, and what it says of each
chunk and of the whole list. -/

namespace Sys2Proof.Machine

variable {c : Config} {cur stop A N : Nat}

/-! ### The recursion -/

theorem chunksOf_eq_chunksFrom (c : Config) (A N : Nat) : chunksOf c A N = chunksFrom c (A + N - A) A (A + N) := by
  rw [chunksOf, Nat.add_sub_cancel_left]

/-- What holds of no chunks at the end, and of a chunk and the rest if it holds of the rest, holds of the chunks from any address on. -/
theorem chunksFrom_induction {motive : Nat → List (Nat × Nat) → Prop} (done : motive stop [])
    (next : ∀ cur rest, cur < stop → motive (cur + chunkLength c cur stop) rest →
      motive cur ((cur, chunkLength c cur stop) :: rest))
    (h : cur ≤ stop) : motive cur (chunksFrom c (stop - cur) cur stop) := by
  induction hk : stop - cur using Nat.strong_induction_on generalizing cur with
  | _ k ih =>
    subst hk
    rcases h.eq_or_lt with rfl | hlt
    · rw [chunksFrom_done]
      exact done
    · obtain ⟨h1, -, hend⟩ := chunkLength_bounds c hlt
      rw [chunksFrom_next hlt]
      exact next _ _ hlt (ih _ (by omega) hend rfl)

/-! ### Each chunk -/

/-- A chunk lies in the range and ends no later than its page (43_page_write_splitter R172). -/
theorem bounds_of_mem_chunksFrom (h : cur ≤ stop) :
    ∀ x ∈ chunksFrom c (stop - cur) cur stop, 1 ≤ x.2 ∧ x.2 ≤ toPageEnd c x.1 ∧ x.1 + x.2 ≤ stop := by
  refine chunksFrom_induction (motive := fun _ cs => ∀ x ∈ cs, 1 ≤ x.2 ∧ x.2 ≤ toPageEnd c x.1 ∧ x.1 + x.2 ≤ stop) ?_ ?_ h
  · exact fun x hx => absurd hx List.not_mem_nil
  · exact fun cur rest hlt ih => List.forall_mem_cons.2 ⟨chunkLength_bounds c hlt, ih⟩

theorem bounds_of_mem_chunksOf {x : Nat × Nat} (hx : x ∈ chunksOf c A N) :
    1 ≤ x.2 ∧ x.2 ≤ toPageEnd c x.1 ∧ x.1 + x.2 ≤ A + N := by
  rw [chunksOf_eq_chunksFrom] at hx
  exact bounds_of_mem_chunksFrom (Nat.le_add_right A N) x hx

/-- Settles O35: no chunk is longer than the distance to the end of its page. -/
theorem chunksInOnePage : Obligations.ChunksInOnePage := by
  intro c A N a n hx
  obtain ⟨hn, hpage, -⟩ := bounds_of_mem_chunksOf hx
  exact of_decide_eq_true (onePage_of_le_toPageEnd c a n hn hpage)

/-! ### The whole list -/

/-- The addresses of the chunks, in order, are those of the range. -/
theorem flatMap_chunksFrom (h : cur ≤ stop) :
    (chunksFrom c (stop - cur) cur stop).flatMap (fun x => List.range' x.1 x.2) = List.range' cur (stop - cur) := by
  refine chunksFrom_induction
    (motive := fun cur cs => cs.flatMap (fun x => List.range' x.1 x.2) = List.range' cur (stop - cur)) ?_ ?_ h
  · simp
  · intro cur rest hlt ih
    obtain ⟨-, -, hend⟩ := chunkLength_bounds c hlt
    rw [List.flatMap_cons, ih, List.range'_append_1]
    congr 1
    omega

/-- The first chunk starts at `cur`, and each further one where the one before it ends. -/
theorem chunksFrom_consecutive (h : cur ≤ stop) :
    (∀ y ∈ (chunksFrom c (stop - cur) cur stop).head?, y.1 = cur) ∧
      (chunksFrom c (stop - cur) cur stop).IsChain (fun x y => y.1 = x.1 + x.2) := by
  refine chunksFrom_induction
    (motive := fun cur cs => (∀ y ∈ cs.head?, y.1 = cur) ∧ cs.IsChain (fun x y => y.1 = x.1 + x.2)) ?_ ?_ h
  · exact ⟨by simp, .nil⟩
  · exact fun cur rest _ ih => ⟨by simp, List.isChain_cons.2 ih⟩

/-- The last chunk ends at `stop`. -/
theorem end_of_last_chunksFrom (h : cur ≤ stop) : ∀ x ∈ (chunksFrom c (stop - cur) cur stop).getLast?, x.1 + x.2 = stop := by
  refine (chunksFrom_induction
    (motive := fun cur cs => (cs = [] → cur = stop) ∧ ∀ x ∈ cs.getLast?, x.1 + x.2 = stop) ?_ ?_ h).2
  · simp
  · intro cur rest _ ih
    obtain ⟨hnil, hlast⟩ := ih
    refine ⟨by simp, ?_⟩
    cases rest with
    | nil => simpa using hnil
    | cons y rest => simpa only [List.getLast?_cons_cons] using hlast

end Sys2Proof.Machine
end

section
/-! SUPPORT. The splitter in the sequencer (43_page_write_splitter R173): the step that computes a chunk length, the register `cur` on the
write path, and the write of no bytes. -/

namespace Sys2Proof.Machine

variable {s t : State}

/-- Settles O34: the two halves of the minimum, and the splitter's row, whose guard leaves at least one byte. -/
theorem chunkLength_inBounds : Obligations.ChunkLength := by
  have hbounds : ∀ (c : Config) (cur stop : Nat), cur < stop →
      1 ≤ chunkLength c cur stop ∧ chunkLength c cur stop ≤ c.pageSize ∧ chunkLength c cur stop ≤ stop - cur := by
    intro c cur stop h
    obtain ⟨h1, hpage, hend⟩ := chunkLength_bounds c h
    exact ⟨h1, hpage.trans (toPageEnd_bounds c cur).2, by omega⟩
  constructor
  · intro c cur stop h
    obtain ⟨h1, hpage, hleft⟩ := hbounds c cur stop h
    exact ⟨h1, hpage, hleft, toPageEnd_bounds c cur⟩
  · intro s t u hturn hinv hp hstep hu
    obtain ⟨-, -, hph⟩ := hinv
    simp only [PhaseInv, hp] at hph
    obtain ⟨-, -, -, hend⟩ := hph
    rw [step_of_turn hturn, row_split hp] at hstep
    rcases splitRow_cases hstep with ⟨-, rfl⟩ | ⟨hne, rfl⟩
    · simp at hu
    · have hlt := lt_of_le_of_ne hend hne
      obtain ⟨h1, hpage, -⟩ := hbounds t.config t.cur _ hlt
      exact ⟨hlt, rfl, h1, hpage⟩

/-! ### The register `cur` -/

/-- After the range check only the hold of WRDI writes `cur`. -/
theorem row_cur (h : Row s t) (hc : s.phase ≠ .check) :
    t.cur = s.cur ∨ (s.phase = .wrdiHold ∧ t.cur = s.cur + s.n) := by
  cases h with
  | checkOut hp | checkRead hp | checkWrite hp => exact absurd hp hc
  | wrdiHold hp => exact .inr ⟨hp, by simp⟩
  | _ => exact .inl (by simp)

/-- From the first poll on the chunk of a write lies in the request, in every phase but the splitter's own. -/
theorem chunkInv_of_write (hi : PhaseInv s) (hop : s.op = .write)
    (hp : s.phase ∉ [Phase.uninit, .idle, .check, .split, .resp]) : ChunkInv s := by
  have hread := write_not_reading hi hop
  cases hq : s.phase with
  | uninit | idle | check | split | resp => simp [hq] at hp
  | rdSel | rdOp | rdAh | rdAl | rdData | rdDesel | rdHold => simp [hq] at hread
  | pollSel | pollOp | pollDummy | pollDesel | pollHold | pollTest =>
    simp only [PhaseInv, hq] at hi
    exact hi.2 hop
  | wrenSel | wrenOp | wrenDesel | wrenHold | wrSel | wrOp | wrAh | wrAl =>
    simp only [PhaseInv, hq] at hi
    exact hi.2
  | wrData | wrDesel | wrHold | wrdiSel | wrdiOp | wrdiDesel | wrdiHold => exact chunkInv_of_phase hi (by simp [hq])

/-- On the write path `cur` lies in the request (43_page_write_splitter R176). -/
theorem cur_bounds_of_write (hi : PhaseInv s) (hop : s.op = .write)
    (hp : s.phase ∉ [Phase.uninit, .idle, .check, .resp]) : s.A ≤ s.cur ∧ s.cur ≤ s.A + s.N := by
  by_cases hsplit : s.phase = .split
  · simp only [PhaseInv, hsplit] at hi
    obtain ⟨-, -, hA, hend⟩ := hi
    exact ⟨hA, hend⟩
  · obtain ⟨-, hA, -, -, hend⟩ := chunkInv_of_write hi hop (by simpa [hsplit] using hp)
    exact ⟨hA, (Nat.le_add_right _ _).trans hend⟩

/-- Settles O36: the list by the recursion's induction principle, `cur` by the register invariant and the one row that advances it. -/
theorem chunksCover : Obligations.ChunksCover := by
  constructor
  · intro c A N
    have hle := Nat.le_add_right A N
    have haddr := flatMap_chunksFrom (c := c) hle
    have hlast := end_of_last_chunksFrom (c := c) hle
    obtain ⟨hhead, hchain⟩ := chunksFrom_consecutive (c := c) hle
    rw [← chunksOf_eq_chunksFrom] at haddr hlast hhead hchain
    rw [Nat.add_sub_cancel_left] at haddr
    refine ⟨haddr, hhead, hlast, fun before x y after h => List.isChain_iff_forall_rel_of_append_cons_cons.1 hchain h,
      fun hmax x hx => ?_⟩
    obtain ⟨-, -, hend⟩ := bounds_of_mem_chunksOf hx
    exact hend.trans hmax
  · intro s t u hturn hinv hop hu hi hc hr hstep
    obtain ⟨-, -, hph⟩ := hinv
    obtain ⟨hA, hend⟩ := cur_bounds_of_write hph hop (by simp [hu, hi, hc, hr])
    rw [step_of_turn hturn] at hstep
    refine ⟨hA, hend, ?_⟩
    rcases row_cur (controllerStep_row hstep) hc with heq | ⟨hp, heq⟩
    · rw [heq]
      exact ⟨le_rfl, hend⟩
    · obtain ⟨-, -, -, -, hchunk⟩ := chunkInv_of_phase hph (by simp [hp])
      rw [heq]
      exact ⟨Nat.le_add_right _ _, hchunk⟩

/-! ### The write of no bytes -/

/-- A write of no bytes from S_CHECK: the range check, the splitter's loop test made before the first pass, and the response. -/
theorem run_emptyWrite (hs : s.schedule = []) (hp : s.phase = .check) (hop : s.op = .write) (hN : s.N = 0)
    (hA : s.A < s.config.maxAddress) :
    run 3 s = .next (respond { s with rstat := .ok, cur := s.A, phase := .resp }) := by
  have hin : outOfRange s.config s.A s.N = false := (inRange_iff _ _ _).2 ⟨hA, by omega⟩
  have hcheck : controllerStep s = .next { s with rstat := .ok, cur := s.A, phase := .split } := by
    simp [row_check hp, checkRow, hin, hop]
  have hsplit : controllerStep { s with rstat := .ok, cur := s.A, phase := .split } =
      .next { s with rstat := .ok, cur := s.A, phase := .resp } := by
    simp [row_split, splitRow, hN, State.goto]
  rw [run_of_controllerStep hs hcheck, run_of_controllerStep (by exact hs) hsplit,
    run_of_controllerStep (by exact hs) (row_resp rfl)]
  rfl

/-- Settles O25: the recursion stops at once, and acceptance is followed by the three rows that touch no bus line. -/
theorem emptyWrite : Obligations.EmptyWrite := by
  refine ⟨fun c A => chunksFrom_done c 0 A, ?_⟩
  intro s r rest hp hs hr hop hk ha hmax
  have haccept := controllerStep_acceptWrite hp hr hop ha (by rw [hk]; exact Nat.two_pow_pos _)
  rw [run_of_controllerStep hs haccept, run_emptyWrite (by exact hs) rfl rfl hk hmax]
  simp [respond, acceptRequest, hr, hk, hp]

end Sys2Proof.Machine
end

section
/-! SUPPORT. The list of chunks in closed form: one chunk for each page that the range touches, the page's part of the range
(43_page_write_splitter R177), and from it the number and the shape of the chunks. -/

namespace Sys2Proof.Machine

variable {c : Config} {cur stop A N q j k : Nat}

/-! ### A page's part of the range -/

/-- The part of the range `[A, stop)` in page `q`: where it begins, and how many bytes it has. -/
def pagePart (c : Config) (A stop q : Nat) : Nat × Nat :=
  (max A (q * c.pageSize), min stop ((q + 1) * c.pageSize) - max A (q * c.pageSize))

/-- The end of the page of `cur` is the start of the next one. -/
theorem add_toPageEnd (c : Config) (cur : Nat) : cur + toPageEnd c cur = (cur / c.pageSize + 1) * c.pageSize := by
  have hdiv := Nat.div_add_mod' cur c.pageSize
  have hmod := Nat.mod_lt cur (pageSize_pos c)
  rw [toPageEnd, Nat.add_mul]
  omega

/-- In the page that the range starts in, the part is the next chunk. -/
theorem pagePart_first (c : Config) (cur stop : Nat) :
    pagePart c cur stop (cur / c.pageSize) = (cur, chunkLength c cur stop) := by
  have hend := add_toPageEnd c cur
  rw [pagePart, max_eq_left (Nat.div_mul_le_self cur c.pageSize), ← hend, chunkLength]
  congr 1
  omega

/-- In a further page the part begins where the page does. -/
theorem pagePart_later (h : A ≤ q * c.pageSize) :
    pagePart c A stop q = (q * c.pageSize, min stop ((q + 1) * c.pageSize) - q * c.pageSize) := by
  rw [pagePart, max_eq_right h]

/-! ### The closed form -/

theorem chunkLength_le_toPageEnd (c : Config) (cur stop : Nat) : chunkLength c cur stop ≤ toPageEnd c cur := min_le_right _ _

/-- A chunk that leaves bytes of the range ends where its page does. -/
theorem add_chunkLength_of_lt (h : cur + chunkLength c cur stop < stop) :
    cur + chunkLength c cur stop = (cur / c.pageSize + 1) * c.pageSize := by
  rw [← add_toPageEnd]
  unfold chunkLength at *
  omega

/-- The last chunk lies in the page of the range's last byte. -/
theorem page_of_lastByte (h : cur < stop) (hlast : cur + chunkLength c cur stop = stop) :
    (stop - 1) / c.pageSize = cur / c.pageSize := by
  have hpage := add_toPageEnd c cur
  have hlen := chunkLength_le_toPageEnd c cur stop
  have hstart := Nat.div_mul_le_self cur c.pageSize
  exact Nat.div_eq_of_lt_le (by omega) (by omega)

/-- One chunk for each page from that of the first byte to that of the last. -/
theorem chunksFrom_eq_map (h : cur < stop) :
    chunksFrom c (stop - cur) cur stop =
      (List.range' (cur / c.pageSize) ((stop - 1) / c.pageSize + 1 - cur / c.pageSize)).map (pagePart c cur stop) := by
  induction hk : stop - cur using Nat.strong_induction_on generalizing cur with
  | _ k ih =>
    subst hk
    have hP := pageSize_pos c
    obtain ⟨h1, -, hend⟩ := chunkLength_bounds c h
    rw [chunksFrom_next h]
    rcases hend.eq_or_lt with hlast | hmore
    · rw [page_of_lastByte h hlast, hlast, chunksFrom_done, Nat.add_sub_cancel_left, List.range'_one, List.map_singleton,
        pagePart_first]
    · have hstart := add_chunkLength_of_lt hmore
      have hnext : (cur + chunkLength c cur stop) / c.pageSize = cur / c.pageSize + 1 := by rw [hstart, Nat.mul_div_cancel _ hP]
      have hle : cur / c.pageSize + 1 ≤ (stop - 1) / c.pageSize := (Nat.le_div_iff_mul_le hP).2 (by omega)
      have hcount : (stop - 1) / c.pageSize + 1 - cur / c.pageSize =
          (stop - 1) / c.pageSize + 1 - (cur / c.pageSize + 1) + 1 := by omega
      rw [ih _ (by omega) hmore rfl, hnext, hcount, List.range'_succ, List.map_cons, pagePart_first]
      congr 1
      refine List.map_congr_left fun q hq => ?_
      have hq : (cur / c.pageSize + 1) * c.pageSize ≤ q * c.pageSize := Nat.mul_le_mul_right _ (List.mem_range'_1.1 hq).1
      rw [pagePart_later (by omega), pagePart_later (by omega)]

/-! ### Number and shape -/

/-- The number of pages that a request of at least one byte touches (43_page_write_splitter R177). -/
theorem pages_touched (c : Config) (A : Nat) (hN : 1 ≤ N) :
    (A + N - 1) / c.pageSize + 1 - A / c.pageSize = (A % c.pageSize + N + c.pageSize - 1) / c.pageSize := by
  have hP := pageSize_pos c
  have hlast : A + N - 1 = A % c.pageSize + N - 1 + A / c.pageSize * c.pageSize := by
    have := Nat.div_add_mod' A c.pageSize
    omega
  have hcount : A % c.pageSize + N + c.pageSize - 1 = A % c.pageSize + N - 1 + c.pageSize := by omega
  rw [hlast, hcount, Nat.add_mul_div_right _ _ hP, Nat.add_div_right _ hP, Nat.add_right_comm, Nat.add_sub_cancel]

theorem chunksOf_eq_map (c : Config) (A : Nat) (hN : 1 ≤ N) :
    chunksOf c A N =
      (List.range' (A / c.pageSize) ((A % c.pageSize + N + c.pageSize - 1) / c.pageSize)).map (pagePart c A (A + N)) := by
  rw [chunksOf_eq_chunksFrom, chunksFrom_eq_map (by omega), pages_touched c A hN]

theorem getElem?_chunksOf (hN : 1 ≤ N) (hj : j < (chunksOf c A N).length) :
    (chunksOf c A N)[j]? = some (pagePart c A (A + N) (A / c.pageSize + j)) := by
  rw [chunksOf_eq_map c A hN, List.length_map, List.length_range'] at hj
  simp [chunksOf_eq_map c A hN, List.getElem?_range' hj]

theorem chunkLength_eq_min (c : Config) (A N : Nat) : chunkLength c A (A + N) = min N (c.pageSize - A % c.pageSize) := by
  rw [chunkLength, toPageEnd, Nat.add_sub_cancel_left]

/-- The last byte's distance from the start of the first page, in whole pages and the rest. -/
theorem lastByte_eq (c : Config) (A : Nat) (hN : 1 ≤ N) (hk : k = (chunksOf c A N).length) :
    (k - 1) * c.pageSize + (A % c.pageSize + N - 1) % c.pageSize = A % c.pageSize + N - 1 := by
  have hcount : A % c.pageSize + N + c.pageSize - 1 = A % c.pageSize + N - 1 + c.pageSize := by omega
  rw [chunksOf_eq_map c A hN, List.length_map, List.length_range', hcount, Nat.add_div_right _ (pageSize_pos c)] at hk
  rw [hk, Nat.succ_sub_one, Nat.div_add_mod']

/-- Settles O37: chunk `j` is the part of the request in its `j`-th page. -/
theorem chunkShape : Obligations.ChunkShape := by
  refine ⟨fun c A => rfl, ?_⟩
  rintro c A N P r k hN rfl rfl hk
  have hP := pageSize_pos c
  have hA := Nat.div_add_mod' A c.pageSize
  have hr := Nat.mod_lt A hP
  have hrest := Nat.mod_lt (A % c.pageSize + N - 1) hP
  have hspan := lastByte_eq c A hN hk
  have hcount : k = (A % c.pageSize + N + c.pageSize - 1) / c.pageSize := by rw [hk, chunksOf_eq_map c A hN]; simp
  have hget : ∀ j < k, (chunksOf c A N)[j]? = some (pagePart c A (A + N) (A / c.pageSize + j)) := by
    subst hk
    exact fun j hj => getElem?_chunksOf hN hj
  refine ⟨hcount, fun hone => ?_, fun htwo => ⟨?_, fun j h1 hj => ?_, ?_⟩⟩
  · have hall : chunkLength c A (A + N) = N := by
      rw [hone] at hspan
      rw [chunkLength_eq_min]
      omega
    rw [chunksOf_eq_map c A hN, ← hcount, hone, List.range'_one, List.map_singleton, pagePart_first, hall]
  · have hpage : c.pageSize ≤ (k - 1) * c.pageSize := Nat.le_mul_of_pos_left _ (by omega)
    have hfull : chunkLength c A (A + N) = c.pageSize - A % c.pageSize := by
      rw [chunkLength_eq_min]
      omega
    rw [hget 0 (by omega), Nat.add_zero, pagePart_first, hfull]
  · have hstart : c.pageSize ≤ j * c.pageSize := Nat.le_mul_of_pos_left _ h1
    have hbefore : (j + 1) * c.pageSize ≤ (k - 1) * c.pageSize := Nat.mul_le_mul_right _ (by omega)
    rw [hget j (by omega), pagePart_later (by rw [Nat.add_mul]; omega)]
    simp only [Nat.add_mul, Nat.one_mul] at hbefore ⊢
    congr 2
    omega
  · have hstart : c.pageSize ≤ (k - 1) * c.pageSize := Nat.le_mul_of_pos_left _ (by omega)
    rw [hget (k - 1) (by omega), pagePart_later (by rw [Nat.add_mul]; omega)]
    simp only [Nat.add_mul, Nat.one_mul]
    congr 2
    omega

/-! ### Boundaries -/

theorem toPageEnd_boundary (c : Config) (q : Nat) : toPageEnd c (q * c.pageSize) = c.pageSize := by
  rw [toPageEnd, Nat.mul_mod_left, Nat.sub_zero]

/-- A range that ends no later than its first page is one chunk. -/
theorem chunksFrom_inPage (h : cur < stop) (hpage : stop ≤ cur + toPageEnd c cur) :
    chunksFrom c (stop - cur) cur stop = [(cur, stop - cur)] := by
  have hlen : chunkLength c cur stop = stop - cur := min_eq_left (by omega)
  rw [chunksFrom_next h, hlen, Nat.add_sub_of_le h.le, chunksFrom_done]

/-- A request that ends in the second page is two chunks, cut at the page's end. -/
theorem chunksOf_twoPages {k m : Nat} (hk : toPageEnd c A = k) (hm : 1 ≤ m) (hnext : m ≤ toPageEnd c (A + k)) :
    chunksOf c A (k + m) = [(A, k), (A + k, m)] := by
  obtain ⟨h1, -⟩ := toPageEnd_bounds c A
  have hlen : chunkLength c A (A + (k + m)) = k := (min_eq_right (by omega)).trans hk
  have hrest : A + (k + m) - (A + k) = m := by omega
  rw [chunksOf_eq_chunksFrom, chunksFrom_next (by omega), hlen, chunksFrom_inPage (by omega) (by omega), hrest]

/-- Settles O38: the document's boundary cases. -/
theorem chunkBoundaries : Obligations.ChunkBoundaries := by
  refine ⟨fun c => ?_, fun c q => ?_, fun c _ hP => ?_⟩
  · have hP := pageSize_pos c
    have hfirst : toPageEnd c (c.pageSize - 1) = 1 := by
      rw [toPageEnd, Nat.mod_eq_of_lt (by omega)]
      omega
    have hstart : c.pageSize - 1 + 1 = c.pageSize := by omega
    have htwo := chunksOf_twoPages hfirst le_rfl (toPageEnd_bounds c _).1
    rwa [hstart] at htwo
  · have hP := pageSize_pos c
    rw [chunksOf_eq_chunksFrom, chunksFrom_inPage (by omega) (by rw [toPageEnd_boundary]), Nat.add_sub_cancel_left]
  · exact chunksOf_twoPages (k := 3) (m := 3) (by simp [toPageEnd, hP]) (by decide) (by simp [toPageEnd, hP])

end Sys2Proof.Machine
end

section
/-! SUPPORT. The bus invariant through every step, whatever the device returns: each row adds the event that its phase allows
after the trace so far, and no other agent touches the trace but the reset input, which empties it. -/

namespace Sys2Proof.Machine

variable {s t u : State} {b b' : BusState} {e : Event}

/-- The phase's clause depends on the configuration and the registers alone. -/
theorem busAt_of_eq (h : BusAt u b) (hc : t.config = u.config := by simp) (hp : t.phase = u.phase := by rfl)
    (hr : t.registers = u.registers := by simp [State.registers]) : BusAt t b := by
  simp only [State.registers, Registers.mk.injEq] at hr
  simpa only [BusAt, readAddress, positionsDone, readFrameDone, hc, hp, hr] using h

/-- A row that adds an event; `u` is a state with the phase and the registers of `t`. -/
theorem busInv_of_event (u : State) (ht : t.trace = s.trace ++ [e]) (hb : busScan s.config s.trace = some b)
    (hev : busEvent s.config b e = some b') (hat : BusAt u b') (hts : t.config = s.config := by simp)
    (hc : t.config = u.config := by simp) (hp : t.phase = u.phase := by rfl)
    (hr : t.registers = u.registers := by simp [State.registers]) : BusInv t :=
  ⟨b', by rw [hts, ht, busScan_snoc hb, hev], busAt_of_eq hat hc hp hr⟩

/-- A row that adds an event and writes no register. -/
theorem busInv_of_transport (ht : t.trace = s.trace ++ [e]) (hb : busScan s.config s.trace = some b)
    (hev : busEvent s.config b e = some b') (hat : BusAt (s.goto t.phase) b') (hts : t.config = s.config := by simp)
    (hr : t.registers = s.registers := by simp [State.registers]) : BusInv t :=
  busInv_of_event (s.goto t.phase) ht hb hev hat hts hts rfl hr

/-- A row that adds an event and sets the counter to `j`. -/
theorem busInv_of_counter (j : Nat) (ht : t.trace = s.trace ++ [e]) (hb : busScan s.config s.trace = some b)
    (hev : busEvent s.config b e = some b') (hat : BusAt { s with i := j, phase := t.phase } b')
    (hts : t.config = s.config := by simp) (hr : t.registers = { s.registers with i := j } := by simp [State.registers]) :
    BusInv t :=
  busInv_of_event { s with i := j, phase := t.phase } ht hb hev hat hts hts rfl hr

/-- A row that adds none. -/
theorem busInv_of_silent (hb : busScan s.config s.trace = some b) (hat : BusAt t b) (ht : t.trace = s.trace := by rfl)
    (hc : t.config = s.config := by rfl) : BusInv t :=
  ⟨b, by rw [hc, ht, hb], hat⟩

/-! ### The frames that end -/

theorem busEvent_desel_of_legal {c : Config} {before : Option Transaction} {o : Byte} {rest : List Byte} {v : Byte}
    (hl : frameLegal c (o :: rest) = true) (hm : mayFollow before o = true) :
    busEvent c (.selected before (o :: rest) v) .desel = some (.released ⟨o :: rest, v⟩) := by
  simp [busEvent, hl, hm]

theorem busEvent_hold {c : Config} {u : Transaction} {d : Nat} (hd : c.tCsdMin ≤ d) :
    busEvent c (.released u) (.hold d) = some (.operation (some u)) := by
  simp [busEvent, hd]

theorem busEvent_resp {c : Config} {before : Option Transaction} {r : Status} (h : mayRespond before r = true) :
    busEvent c (.operation before) (.resp r) = some .between := by
  simp [busEvent, h]

theorem frameLegal_rdsr (c : Config) : frameLegal c [opcodeRdsr, c.dummyByte] = true := by simp [frameLegal]

theorem frameLegal_writeFrame (c : Config) {a n : Nat} {data : List Byte} (hn : 1 ≤ n) (hlen : data.length = n)
    (hpage : n ≤ toPageEnd c a) (ha : a + n ≤ c.maxAddress) : frameLegal c (writeFrame (addressField a) data) = true := by
  have hmax := maxAddress_le c
  have hfield : (addressField a).toNat = a := addressField_toNat (by omega)
  have hacc := writeAccepted_of_le_toPageEnd c a n hn hpage ha
  obtain ⟨x, data, rfl⟩ := List.exists_cons_of_length_pos (hlen ▸ hn)
  rw [← hlen] at hacc
  rw [List.length_cons] at hacc
  simp [frameLegal, writeFrame, joinAddr_hi8_lo8, hfield, hacc]

/-- The frame of the READ just completed: the request's, or the last byte's. -/
theorem frameLegal_readFrameDone (hr : InRange s) (h1 : 1 ≤ s.i) (hN : s.i ≤ s.N) : frameLegal s.config (readFrameDone s) = true := by
  obtain ⟨-, hmax, -⟩ := hr
  unfold readFrameDone
  split
  · exact frameLegal_readFrame _ _ _ (h1.trans hN) hmax
  · exact frameLegal_readFrame _ _ _ le_rfl (by omega)

/-- With more than one position to come the framing is Burst, and the frame grows by one. -/
theorem readFrame_next (hm : 1 < pendingPositions s) :
    readFrame s.config (addressField (readAddress s)) (positionsDone s) ++ [s.config.dummyByte] =
      readFrame s.config (addressField (readAddress { s with i := s.i + 1, phase := .rdData }))
        (positionsDone { s with i := s.i + 1, phase := .rdData }) := by
  have hf : s.config.readFraming = .burst := by
    unfold pendingPositions at hm
    split at hm
    · assumption
    · omega
  rw [readFrame_snoc]
  simp [readAddress, positionsDone, hf]

/-! ### What may follow what -/

theorem isIdlePoll_of_idle (d : Byte) (hb : statusBusy s.sr = false) : Transaction.isIdlePoll ⟨[opcodeRdsr, d], s.sr⟩ = true := by
  simp [isIdlePoll_iff, Transaction.has, hb]

theorem mayFollow_rdsr_of_busyPoll (d : Byte) (hb : statusBusy s.sr = true) :
    mayFollow (some ⟨[opcodeRdsr, d], s.sr⟩) opcodeRdsr = true := by
  simp [mayFollow, Transaction.isBusyPoll, Transaction.has, hb]

theorem mayFollow_read_of_idlePoll {u : Transaction} (h : u.isIdlePoll = true) : mayFollow (some u) opcodeRead = true := by
  simp [mayFollow, h]

theorem mayFollow_read_of_read {u : Transaction} (h : u.has opcodeRead = true) : mayFollow (some u) opcodeRead = true := by
  simp [mayFollow, h]

/-- The first poll of a chunk: nothing before it in the operation, or the WRDI of the chunk before. -/
theorem mayFollow_rdsr_of_split {before : Option Transaction}
    (h : before = none ∨ ∃ u, before = some u ∧ u.has opcodeWrdi = true) : mayFollow before opcodeRdsr = true := by
  rcases h with rfl | ⟨u, rfl, hu⟩
  · rfl
  · simp [mayFollow, hu]

theorem mayRespond_ok_of_split {before : Option Transaction}
    (h : before = none ∨ ∃ u, before = some u ∧ u.has opcodeWrdi = true) : mayRespond before .ok = true := by
  rcases h with rfl | ⟨u, rfl, hu⟩
  · rfl
  · simp [mayRespond, hu]

theorem mayRespond_ok_of_idlePoll {u : Transaction} (h : u.isIdlePoll = true) : mayRespond (some u) .ok = true := by
  simp [mayRespond, h]

theorem mayRespond_ok_of_read {u : Transaction} (h : u.has opcodeRead = true) : mayRespond (some u) .ok = true := by
  simp [mayRespond, h]

/-! ### The rows -/

theorem row_keeps_busInv (h : Row s t) (hi : PhaseInv s) (hbus : BusInv s) : BusInv t := by
  obtain ⟨b, hb, hat⟩ := id hbus
  cases h with
  | waitUninit | waitIdle | rdDataStuck | rdHoldStuck | wrDataStuck => exact hbus
  | refuseUninit hp | refuseIdle hp => exact busInv_of_silent hb hat
  | initUninit hp =>
    simp only [BusAt, hp] at hat
    subst hat
    exact busInv_of_transport rfl hb rfl rfl
  | initIdle hp =>
    simp only [BusAt, hp] at hat
    subst hat
    exact busInv_of_event s rfl hb rfl (by simp only [BusAt, hp])
  | acceptRead r _ hp | acceptWrite r _ hp =>
    simp only [BusAt, hp] at hat
    subst hat
    exact ⟨_, busScan_snoc hb, rfl⟩
  | checkOut hp | checkRead hp =>
    simp only [BusAt, hp] at hat
    subst hat
    exact busInv_of_silent hb ⟨none, rfl, rfl⟩
  | checkWrite hp =>
    simp only [BusAt, hp] at hat
    subst hat
    exact busInv_of_silent hb ⟨none, rfl, .inl rfl⟩
  | splitDone hp =>
    simp only [BusAt, hp] at hat
    simp only [PhaseInv, hp] at hi
    obtain ⟨before, rfl, hw⟩ := hat
    obtain ⟨⟨-, -, hrs⟩, -⟩ := hi
    exact busInv_of_silent hb ⟨before, rfl, by rw [goto_rstat, hrs]; exact mayRespond_ok_of_split hw⟩
  | splitMore hp =>
    simp only [BusAt, hp] at hat
    obtain ⟨before, rfl, hw⟩ := hat
    exact busInv_of_silent hb ⟨before, rfl, mayFollow_rdsr_of_split hw⟩
  | pollAgain hp hbusy =>
    simp only [BusAt, hp] at hat
    subst hat
    exact busInv_of_silent hb ⟨_, rfl, mayFollow_rdsr_of_busyPoll _ hbusy⟩
  | pollWrite hp hidle =>
    simp only [BusAt, hp] at hat
    subst hat
    exact busInv_of_silent hb ⟨_, rfl, by rw [mayFollow_wren]; exact isIdlePoll_of_idle _ hidle⟩
  | pollReadNone hp hidle =>
    simp only [BusAt, hp] at hat
    simp only [PhaseInv, hp] at hi
    subst hat
    obtain ⟨⟨-, -, hrs⟩, -⟩ := hi
    exact busInv_of_silent hb ⟨_, rfl, by rw [goto_rstat, hrs]; exact mayRespond_ok_of_idlePoll (isIdlePoll_of_idle _ hidle)⟩
  | pollRead hp hidle =>
    simp only [BusAt, hp] at hat
    subst hat
    exact busInv_of_silent hb ⟨_, rfl, mayFollow_read_of_idlePoll (isIdlePoll_of_idle _ hidle)⟩
  | pollSel hp | rdSel hp | wrenSel hp | wrSel hp | wrdiSel hp =>
    simp only [BusAt, hp] at hat
    obtain ⟨before, rfl, hm⟩ := hat
    exact busInv_of_transport rfl hb rfl ⟨before, _, rfl, hm⟩
  | pollOp hp | rdOp hp | rdAh hp | wrenOp hp | wrOp hp | wrAh hp | wrdiOp hp =>
    simp only [BusAt, hp] at hat
    obtain ⟨before, v, rfl, hm⟩ := hat
    exact busInv_of_transport rfl hb rfl ⟨before, _, rfl, hm⟩
  | pollDummy hp =>
    simp only [BusAt, hp] at hat
    obtain ⟨before, v, rfl, hm⟩ := hat
    exact busInv_of_event { s with sr := received s s.config.dummyByte, phase := .pollDesel } rfl hb rfl ⟨before, rfl, hm⟩
  | rdAl hp =>
    simp only [BusAt, hp] at hat
    simp only [PhaseInv, hp] at hi
    obtain ⟨before, v, rfl, hm⟩ := hat
    obtain ⟨-, -, -, hburst⟩ := hi
    exact busInv_of_transport rfl hb rfl ⟨before, _, congrArg (BusState.selected before · _) (readFrame_first hburst).symm, hm⟩
  | rdDataMore hp hm =>
    simp only [BusAt, hp] at hat
    obtain ⟨before, v, rfl, hmay⟩ := hat
    exact busInv_of_counter (s.i + 1) rfl hb rfl ⟨before, _, congrArg (BusState.selected before · _) (readFrame_next hm), hmay⟩
  | rdDataLast hp hm =>
    simp only [BusAt, hp] at hat
    obtain ⟨before, v, rfl, hmay⟩ := hat
    refine busInv_of_counter (s.i + 1) rfl hb rfl ⟨before, _, congrArg (BusState.selected before · _) ?_, hmay⟩
    exact (readFrameDone_of_last (t := { s with i := s.i + 1, phase := .rdDesel }) hm rfl rfl rfl rfl).symm
  | wrAl hp =>
    simp only [BusAt, hp] at hat
    obtain ⟨before, v, rfl, hm⟩ := hat
    exact busInv_of_counter 0 rfl hb rfl ⟨before, _, [], rfl, rfl, hm⟩
  | wrDataMore x hp | wrDataLast x hp =>
    simp only [BusAt, hp] at hat
    obtain ⟨before, v, data, rfl, hlen, hm⟩ := hat
    exact busInv_of_counter (s.i + 1) rfl hb rfl
      ⟨before, _, data ++ [x], congrArg (BusState.selected before · _) (writeFrame_snoc _ _ _), by simp [hlen], hm⟩
  | pollDesel d hp =>
    simp only [BusAt, hp] at hat
    obtain ⟨before, rfl, hm⟩ := hat
    exact busInv_of_transport rfl hb (busEvent_desel_of_legal (frameLegal_rdsr _) hm) rfl
  | rdDesel d hp =>
    simp only [BusAt, hp] at hat
    simp only [PhaseInv, hp] at hi
    obtain ⟨before, v, rfl, hm⟩ := hat
    obtain ⟨hr, -, h1, hN, -⟩ := hi
    have hlegal := frameLegal_readFrameDone hr h1 hN
    obtain ⟨rest, hrest⟩ := readFrameDone_cons s
    rw [hrest] at hb hlegal
    exact busInv_of_transport rfl hb (busEvent_desel_of_legal hlegal hm) ⟨_, rfl, rfl⟩
  | wrenDesel d hp | wrdiDesel d hp =>
    simp only [BusAt, hp] at hat
    obtain ⟨before, v, rfl, hm⟩ := hat
    exact busInv_of_transport rfl hb (busEvent_desel_of_legal rfl hm) ⟨_, rfl, rfl⟩
  | wrDesel d hp =>
    simp only [BusAt, hp] at hat
    simp only [PhaseInv, hp] at hi
    obtain ⟨before, v, data, rfl, hlen, hm⟩ := hat
    obtain ⟨⟨-, hmax, -⟩, ⟨-, -, hn, hpage, hend⟩, hin⟩ := hi
    have hlegal := frameLegal_writeFrame s.config hn (hlen.trans hin) hpage (hend.trans hmax)
    exact busInv_of_transport rfl hb (busEvent_desel_of_legal hlegal hm) ⟨_, rfl, rfl⟩
  | pollHold hp =>
    simp only [BusAt, hp] at hat
    subst hat
    exact busInv_of_transport rfl hb (busEvent_hold (le_holdTime s)) rfl
  | rdHoldMore hp =>
    simp only [BusAt, hp] at hat
    obtain ⟨u, rfl, hu⟩ := hat
    exact busInv_of_transport rfl hb (busEvent_hold (le_holdTime s)) ⟨_, rfl, mayFollow_read_of_read hu⟩
  | rdHoldDone hp =>
    simp only [BusAt, hp] at hat
    simp only [PhaseInv, hp] at hi
    obtain ⟨u, rfl, hu⟩ := hat
    obtain ⟨⟨-, -, hrs⟩, -⟩ := hi
    exact busInv_of_transport rfl hb (busEvent_hold (le_holdTime s))
      ⟨_, rfl, by rw [goto_rstat, hrs]; exact mayRespond_ok_of_read hu⟩
  | wrenHold hp =>
    simp only [BusAt, hp] at hat
    obtain ⟨u, rfl, hu⟩ := hat
    exact busInv_of_transport rfl hb (busEvent_hold (le_holdTime s)) ⟨_, rfl, by rw [mayFollow_write]; exact hu⟩
  | wrHold hp =>
    simp only [BusAt, hp] at hat
    obtain ⟨u, rfl, hu⟩ := hat
    exact busInv_of_transport rfl hb (busEvent_hold (le_holdTime s)) ⟨_, rfl, by rw [mayFollow_wrdi]; exact hu⟩
  | wrdiHold hp =>
    simp only [BusAt, hp] at hat
    obtain ⟨u, rfl, hu⟩ := hat
    exact busInv_of_event { s with cur := s.cur + s.n, phase := .split } rfl hb (busEvent_hold (le_holdTime s))
      ⟨_, rfl, .inr ⟨u, rfl, hu⟩⟩
  | resp hp =>
    simp only [BusAt, hp] at hat
    obtain ⟨before, rfl, hm⟩ := hat
    exact busInv_of_transport rfl hb (busEvent_resp hm) rfl

/-- A run begins again with the empty trace (70_reset_and_hazards R250). -/
theorem busInv_reset (s : State) : BusInv (reset s) := by
  unfold reset
  split <;> exact ⟨.between, rfl, rfl⟩

/-- Settles O45: each row adds the event that its phase allows. -/
theorem busKept : Obligations.BusKept := by
  rintro s t ⟨-, -, hi⟩ hbus h
  rcases step_cases h with ⟨v, hturn, hc⟩ | ⟨rest, -, rfl⟩ | ⟨rest, -, rfl⟩ | ⟨rest, q, -, rfl⟩ | ⟨rest, k, b, -, rfl⟩
  · have hrow := controllerStep_row hc
    rw [turn_eq hturn] at hrow
    exact row_keeps_busInv hrow hi hbus
  · exact hbus
  · exact busInv_reset _
  · exact hbus
  · exact hbus

end Sys2Proof.Machine
end

section
/-! SUPPORT. Progress from a state that meets the invariants (44_host_operations R198, 20_memory R74): no row faults, since the device
knows every frame that ends and the buffers have the byte that a data row needs, and no row of a busy controller stutters. -/

namespace Sys2Proof.Machine

variable {s t : State}

/-! ### At the request port -/

theorem exec_port_total {i : Instr} (hp : s.phase = .uninit ∨ s.phase = .idle) (hi : decodePort s = .run i) :
    ∃ t, exec i s = .next t := by
  rcases decodePort_run_cases hi with rfl | ⟨a, k, b, rfl⟩ | ⟨a, k, b, rfl⟩ <;> rcases hp with hp | hp
  all_goals simp only [exec, execInit, execHostRead, execHostWrite, hp]
  all_goals exact ⟨_, rfl⟩

theorem controllerStep_port_total (hp : s.phase = .uninit ∨ s.phase = .idle) : ∃ t, controllerStep s = .next t := by
  cases hd : decodePort s with
  | run i =>
    rw [controllerStep_of_fetch ((fetch_port hp).trans hd)]
    exact exec_port_total hp hd
  | refuse => exact ⟨refuseRequest s, by rw [controllerStep, fetch_port hp, hd]⟩
  | nothing => exact ⟨s, by rw [controllerStep, fetch_port hp, hd, wait]⟩

/-! ### The end of a transaction -/

/-- The phases whose row is a `Desel`. -/
def Phase.deselecting : Phase → Bool
  | .pollDesel | .rdDesel | .wrenDesel | .wrDesel | .wrdiDesel => true
  | _ => false

/-- The chunk's WRITE frame that the monitor has seen keeps the device's rules: it lies in one page of the array. -/
theorem deselect_total_of_wrDesel {data : List Byte} (hi : PhaseInv s) (hp : s.phase = .wrDesel) (hk : s.device.kind = .reference)
    (hf : s.device.frame = writeFrame (addressField s.cur) data) (hlen : data.length = s.i) (hw : s.device.wip = false)
    (hl : s.device.wel = true) : ∃ d, s.device.deselect s.config = .ok d := by
  simp only [PhaseInv, hp] at hi
  obtain ⟨hr, hch, hin⟩ := hi
  have hfield := addressField_cur hch hr
  obtain ⟨-, hmax, -⟩ := hr
  obtain ⟨-, -, hn, hpage, hend⟩ := hch
  have hacc := writeAccepted_of_le_toPageEnd s.config s.cur s.n hn hpage (hend.trans hmax)
  exact ⟨_, deselect_write hk hf hw hl (by rwa [joinAddr_hi8_lo8, hfield, hlen, hin])⟩

/-- "Of frames the controller can actually send, the model defines every one" (20_memory R74). -/
theorem deselect_total (hi : PhaseInv s) (hbus : BusInv s) (hdev : DeviceInv s) (hp : s.phase.deselecting = true) :
    ∃ d, s.device.deselect s.config = .ok d := by
  cases hk : s.device.kind with
  | arbitrary => exact ⟨_, deselect_arbitrary hk⟩
  | reference =>
    obtain ⟨b, hb, hat⟩ := hbus
    obtain ⟨hframe, -, -, hidle, hlatch⟩ := hdev hk
    have hf := hframe b hb
    have hfits := frameFits_of_busAt hat hf
    cases hph : s.phase <;> simp only [hph, Phase.deselecting, Bool.false_eq_true] at hp
    case pollDesel =>
      simp only [FrameFits, hph] at hfits
      obtain ⟨rest, hrest⟩ := hfits
      exact ⟨_, deselect_rdsr_or_read hk hrest (.inl rfl)⟩
    case rdDesel =>
      simp only [FrameFits, hph] at hfits
      obtain ⟨rest, hrest⟩ := hfits
      exact ⟨_, deselect_rdsr_or_read hk hrest (.inr rfl)⟩
    case wrenDesel =>
      simp only [FrameFits, hph] at hfits
      exact ⟨_, deselect_wren hk hfits (hidle (by rw [hph]; rfl))⟩
    case wrDesel =>
      simp only [BusAt, hph] at hat
      obtain ⟨before, v, data, rfl, hlen, -⟩ := hat
      exact deselect_total_of_wrDesel hi hph hk hf hlen (hidle (by rw [hph]; rfl)) (hlatch (by rw [hph]; rfl))
    case wrdiDesel =>
      simp only [BusAt, hph] at hat
      obtain ⟨before, v, rfl, -⟩ := hat
      exact deselect_wrdi_total hk hf

/-! ### The rows -/

theorem readHoldRow_total (s : State) : ∃ t, readHoldRow s = .next t := by
  unfold readHoldRow
  split
  · exact ⟨_, rfl⟩
  · split <;> exact ⟨_, rfl⟩

/-- There is a position to come in S_RD_DATA, and the buffer has a place for its byte. -/
theorem fits_of_rdData (hi : PhaseInv s) (hp : s.phase = .rdData) (hfit : BuffersFit s) :
    1 ≤ pendingPositions s ∧ s.i < s.dst.length := by
  simp only [PhaseInv, hp] at hi
  obtain ⟨-, hop, hlt⟩ := hi
  refine ⟨?_, hlt.trans_le (hfit.1 hop)⟩
  unfold pendingPositions
  split <;> omega

theorem controllerStep_busy_total (hb : s.busy = true) (hi : PhaseInv s) (hfit : BuffersFit s)
    (hdesel : s.phase.deselecting = true → ∃ d, s.device.deselect s.config = .ok d) : ∃ t, controllerStep s = .next t := by
  cases hp : s.phase with
  | uninit | idle => simp [busy_iff, hp] at hb
  | check => rw [row_check hp]; exact checkRow_total s
  | split => rw [row_split hp]; exact splitRow_total s
  | pollTest => rw [row_pollTest hp]; exact pollTestRow_total s
  | resp => exact ⟨_, row_resp hp⟩
  | pollSel => exact ⟨_, row_pollSel hp⟩
  | rdSel => exact ⟨_, row_rdSel hp⟩
  | wrenSel => exact ⟨_, row_wrenSel hp⟩
  | wrSel => exact ⟨_, row_wrSel hp⟩
  | wrdiSel => exact ⟨_, row_wrdiSel hp⟩
  | pollOp => exact ⟨_, row_pollOp hp⟩
  | pollDummy => exact ⟨_, row_pollDummy hp⟩
  | rdOp => exact ⟨_, row_rdOp hp⟩
  | rdAh => exact ⟨_, row_rdAh hp⟩
  | rdAl => exact ⟨_, row_rdAl hp⟩
  | wrenOp => exact ⟨_, row_wrenOp hp⟩
  | wrOp => exact ⟨_, row_wrOp hp⟩
  | wrAh => exact ⟨_, row_wrAh hp⟩
  | wrAl => exact ⟨_, row_wrAl hp⟩
  | wrdiOp => exact ⟨_, row_wrdiOp hp⟩
  | pollHold => exact ⟨_, row_pollHold hp⟩
  | wrenHold => exact ⟨_, row_wrenHold hp⟩
  | wrHold => exact ⟨_, row_wrHold hp⟩
  | wrdiHold => exact ⟨_, row_wrdiHold hp⟩
  | rdHold => rw [row_rdHold hp]; exact readHoldRow_total s
  | rdData =>
    obtain ⟨hm, hl⟩ := fits_of_rdData hi hp hfit
    exact ⟨_, (row_rdData hp).trans (readDataRow_of_fits hm hl)⟩
  | wrData =>
    have hch := chunkInv_of_phase hi (by simp [hp])
    obtain ⟨hlt, b, hm⟩ := memReadSrc_of_wrData hi hp (hfit.2 hch.1)
    exact ⟨_, row_wrData_of_src hp hlt hm⟩
  | pollDesel | rdDesel | wrenDesel | wrDesel | wrdiDesel =>
    obtain ⟨d, hd⟩ := hdesel (by rw [hp]; rfl)
    simp only [row_pollDesel, row_rdDesel, row_wrenDesel, row_wrDesel, row_wrdiDesel, hp]
    exact deselectStep_total hd

/-- A row goes on to another phase or counts one more byte; the stutters are shut out by the registers' bounds. -/
theorem row_progress (h : Row s t) (hb : s.busy = true) (hi : PhaseInv s) :
    t.phase ≠ s.phase ∨ (t.i = s.i + 1 ∧ (s.phase = .rdData ∨ s.phase = .wrData)) := by
  cases h with
  | waitUninit hp | refuseUninit hp | initUninit hp | waitIdle hp | refuseIdle hp | initIdle hp => simp [busy_iff, hp] at hb
  | acceptRead _ _ hp | acceptWrite _ _ hp => simp [busy_iff, hp] at hb
  | rdDataStuck hp hm =>
    simp only [PhaseInv, hp] at hi
    obtain ⟨-, -, hlt⟩ := hi
    unfold pendingPositions at hm
    split at hm <;> omega
  | rdHoldStuck hp hlt =>
    simp only [PhaseInv, hp] at hi
    obtain ⟨-, -, -, hle, -⟩ := hi
    omega
  | wrDataStuck hp hle =>
    simp only [PhaseInv, hp] at hi
    obtain ⟨-, -, hlt⟩ := hi
    omega
  | rdDataMore hp => exact .inr ⟨rfl, .inl hp⟩
  | wrDataMore _ hp => exact .inr ⟨rfl, .inr hp⟩
  | _ => exact .inl (by simp [*])

/-- The controller's step from a state that meets the invariants. -/
theorem controllerStep_progress (hi : Inv s) (hfit : s.busy = true → BuffersFit s) :
    ∃ t, controllerStep s = .next t ∧
      (s.busy = true → t.phase ≠ s.phase ∨ (t.i = s.i + 1 ∧ (s.phase = .rdData ∨ s.phase = .wrData))) := by
  obtain ⟨-, ⟨-, -, hph⟩, hbus, -, hdev⟩ := hi
  by_cases hb : s.busy = true
  · obtain ⟨t, ht⟩ := controllerStep_busy_total hb hph (hfit hb) (deselect_total hph hbus hdev)
    exact ⟨t, ht, fun _ => row_progress (controllerStep_row ht) hb hph⟩
  · have hp : s.phase = .uninit ∨ s.phase = .idle := by simpa [State.busy, Classical.or_iff_not_imp_left] using hb
    obtain ⟨t, ht⟩ := controllerStep_port_total hp
    exact ⟨t, ht, fun h => absurd h hb⟩

/-- Settles O49: every row that the invariants leave is total and goes on, and the other agents always have their move. -/
theorem sequencerProgress : Obligations.SequencerProgress := by
  intro s hi hfit
  cases hs : s.schedule with
  | nil =>
    obtain ⟨t, ht, hprog⟩ := controllerStep_progress hi hfit
    exact ⟨t, (step_of_empty_schedule hs).trans ht, fun _ => hprog⟩
  | cons m rest =>
    rw [step_of_move hs]
    cases m with
    | controller =>
      obtain ⟨t, ht, hprog⟩ := controllerStep_progress (s := { s with schedule := rest }) hi hfit
      exact ⟨t, ht, fun _ => hprog⟩
    | complete | reset | present _ | hostStore _ _ => exact ⟨_, rfl, by simp⟩

end Sys2Proof.Machine
end

section
/-! SUPPORT. The host operations one step at a time (44_host_operations R190 to R193, R197, R198): the rows of INIT, of host `read`
and of host `write`, the range check, acceptance, and what each of these steps leaves unchanged. -/

namespace Sys2Proof.Machine

variable {s t : State} {i : Instr}

/-! ### INIT -/

theorem execInit_uninit (hp : s.phase = .uninit) : execInit s =
    .next { s with
      csSel := false, linkEn := false, phase := .idle, trace := s.trace ++ [.init], requests := s.requests.tail } := by
  simp only [execInit, hp]
  rfl

theorem execInit_idle (hp : s.phase = .idle) :
    execInit s = .next { s with trace := s.trace ++ [.init], requests := s.requests.tail } :=
  show execInit s = .next ((leavePort s).emit .init) by simp only [execInit, hp]

/-- A busy controller does not accept INIT (70_reset_and_hazards R259; log 2). -/
theorem execInit_busy (hb : s.busy = true) : execInit s = .next s := by
  obtain ⟨hu, hi⟩ := busy_iff.1 hb
  unfold execInit
  split
  · exact absurd ‹_› hu
  · exact absurd ‹_› hi
  · rfl

/-- Settles O19: the three arms of the operation. -/
theorem initOperation : Obligations.InitOperation := fun _ => ⟨execInit_uninit, execInit_idle, execInit_busy⟩

/-! ### The silent rows -/

theorem checkRow_out (h : outOfRange s.config s.A s.N = true) :
    checkRow s = .next { s with rstat := .outOfRange, phase := .resp } := by
  simp [checkRow, h, raiseOutOfRange]

theorem checkRow_read (h : outOfRange s.config s.A s.N = false) (hop : s.op = .read) :
    checkRow s = .next { s with rstat := .ok, phase := .pollSel } := by
  simp [checkRow, h, hop]

theorem checkRow_write (h : outOfRange s.config s.A s.N = false) (hop : s.op = .write) :
    checkRow s = .next { s with rstat := .ok, cur := s.A, phase := .split } := by
  simp [checkRow, h, hop]

theorem splitRow_done (h : s.cur = s.A + s.N) : splitRow s = .next { s with phase := .resp } := if_pos h

theorem splitRow_more (h : s.cur ≠ s.A + s.N) :
    splitRow s = .next { s with n := chunkLength s.config s.cur (s.A + s.N), phase := .pollSel } := if_neg h

theorem pollTestRow_write (h : statusBusy s.sr = false) (hop : s.op = .write) :
    pollTestRow s = .next { s with phase := .wrenSel } := by
  simp [pollTestRow, h, hop, State.goto]

theorem pollTestRow_readNone (h : statusBusy s.sr = false) (hop : s.op = .read) (hN : s.N = 0) :
    pollTestRow s = .next { s with phase := .resp } := by
  simp [pollTestRow, h, hop, hN, State.goto]

theorem pollTestRow_read (h : statusBusy s.sr = false) (hop : s.op = .read) (hN : s.N ≠ 0) :
    pollTestRow s = .next { s with i := 0, phase := .rdSel } := by
  simp [pollTestRow, h, hop, hN]

/-! ### Host `read` and host `write` -/

/-- One of the two host operations that make transactions. -/
def IsTransfer (i : Instr) : Prop := (∃ a n b, i = .hostRead a n b) ∨ ∃ a n b, i = .hostWrite a n b

theorem exec_check (hi : IsTransfer i) (hp : s.phase = .check) : exec i s = checkRow s := by
  rcases hi with ⟨a, n, b, rfl⟩ | ⟨a, n, b, rfl⟩ <;> simp only [exec, execHostRead, execHostWrite, hp]

theorem exec_split (hi : IsTransfer i) (hp : s.phase = .split) : exec i s = splitRow s := by
  rcases hi with ⟨a, n, b, rfl⟩ | ⟨a, n, b, rfl⟩ <;> simp only [exec, execHostRead, execHostWrite, hp]

theorem exec_pollTest (hi : IsTransfer i) (hp : s.phase = .pollTest) : exec i s = pollTestRow s := by
  rcases hi with ⟨a, n, b, rfl⟩ | ⟨a, n, b, rfl⟩ <;> simp only [exec, execHostRead, execHostWrite, hp]

theorem exec_resp (hi : IsTransfer i) (hp : s.phase = .resp) : exec i s = respRow s := by
  rcases hi with ⟨a, n, b, rfl⟩ | ⟨a, n, b, rfl⟩ <;> simp only [exec, execHostRead, execHostWrite, hp]

/-- In a phase of a wire command the port waits (70_reset_and_hazards R259; log 2). -/
theorem exec_of_frameInFlight (hi : IsTransfer i) (hf : frameInFlight s ≠ none) : exec i s = .next s := by
  rcases hi with ⟨a, n, b, rfl⟩ | ⟨a, n, b, rfl⟩ <;> cases hp : s.phase
  case inl.uninit | inl.idle | inl.check | inl.split | inl.pollTest | inl.resp => simp [frameInFlight, hp] at hf
  case inr.uninit | inr.idle | inr.check | inr.split | inr.pollTest | inr.resp => simp [frameInFlight, hp] at hf
  all_goals simp only [exec, execHostRead, execHostWrite, hp, wait]

theorem exec_hostRead_idle (hp : s.phase = .idle) (a n : Nat) (b : List Byte) :
    exec (.hostRead a n b) s = .next { acceptRequest .read a n s with dst := b } := by
  simp only [exec, execHostRead, hp]

theorem exec_hostWrite_idle (hp : s.phase = .idle) (a n : Nat) (b : List Byte) :
    exec (.hostWrite a n b) s = .next { acceptRequest .write a n s with src := b } := by
  simp only [exec, execHostWrite, hp]

theorem outOfRange_iff (c : Config) (a n : Nat) : outOfRange c a n = true ↔ a + n > c.maxAddress ∨ a ≥ c.maxAddress := by
  simp [outOfRange]

/-- Settles O20: acceptance, and the rows of the operation in its silent phases. -/
theorem hostOperationRows : Obligations.HostOperationRows := by
  intro s A N buffer
  refine ⟨fun hp => exec_hostRead_idle hp A N buffer, fun hp => exec_hostWrite_idle hp A N buffer, fun i hi => ?_⟩
  have hi : IsTransfer i := hi.imp (fun h => ⟨_, _, _, h⟩) (fun h => ⟨_, _, _, h⟩)
  refine ⟨fun hp ho => ?checkOut, fun hp h1 h2 hop => ?checkRead, fun hp h1 h2 hop => ?checkWrite, fun hp hc => ?splitDone,
    fun hp hc => ?splitMore, fun hp hb => ?pollAgain, fun hp hb hop => ?pollWrite, fun hp hb hop hN => ?pollReadNone,
    fun hp hb hop hN => ?pollRead, fun hp => ?resp, fun _ _ hf => exec_of_frameInFlight hi hf⟩
  case checkOut => exact (exec_check hi hp).trans (checkRow_out ((outOfRange_iff _ _ _).2 ho))
  case checkRead => exact (exec_check hi hp).trans (checkRow_read ((inRange_iff _ _ _).2 ⟨h2, h1⟩) hop)
  case checkWrite => exact (exec_check hi hp).trans (checkRow_write ((inRange_iff _ _ _).2 ⟨h2, h1⟩) hop)
  case splitDone => exact (exec_split hi hp).trans (splitRow_done hc)
  case splitMore => exact (exec_split hi hp).trans (splitRow_more hc)
  case pollAgain => exact (exec_pollTest hi hp).trans (pollTestRow_of_busy hb)
  case pollWrite => exact (exec_pollTest hi hp).trans (pollTestRow_write hb hop)
  case pollReadNone => exact (exec_pollTest hi hp).trans (pollTestRow_readNone hb hop hN)
  case pollRead => exact (exec_pollTest hi hp).trans (pollTestRow_read hb hop (by omega))
  case resp => exact exec_resp hi hp

/-! ### Acceptance -/

/-- The acceptance of a request of either operation. -/
theorem controllerStep_accept {r : Request} {rest : List Request} {op : HostOp} (hp : s.phase = .idle) (hr : s.requests = r :: rest)
    (hop : r.op = op.code) (ha : r.address < 2 ^ s.config.operandWidth) (hk : r.count < 2 ^ s.config.operandWidth) :
    ∃ src dst, controllerStep s = .next { acceptRequest op r.address r.count s with src := src, dst := dst } := by
  cases op with
  | read => exact ⟨s.src, r.buffer, controllerStep_acceptRead hp hr hop ha hk⟩
  | write => exact ⟨r.buffer, s.dst, controllerStep_acceptWrite hp hr hop ha hk⟩

/-- Settles O21: no row of a busy controller touches the port, and only the response ends the operation. -/
theorem acceptRequest_thenBusy : Obligations.AcceptRequest := by
  refine ⟨fun s t r rest op hturn hp hr hop ha hk => ?_, fun s t u hturn hb h => ?_, fun s u hb hreset h => ?_⟩
  · obtain ⟨src, dst, h⟩ := controllerStep_accept hp hr hop ha hk
    exact ⟨_, (step_of_turn hturn).trans h, rfl, rfl, rfl, rfl, rfl, rfl, by simp [hr]⟩
  · rw [step_of_turn hturn] at h
    obtain ⟨-, -, -, -, hreq, -⟩ := row_keeps_request (controllerStep_row h) hb
    exact hreq
  · rcases step_cases h with ⟨t, hturn, hc⟩ | ⟨rest, -, rfl⟩ | ⟨rest, hs, -⟩ | ⟨rest, r, -, rfl⟩ | ⟨rest, k, b, -, rfl⟩
    · have hrow := controllerStep_row hc
      rw [turn_eq hturn] at hrow
      obtain ⟨-, -, -, -, -, hbusy | ⟨hp, rfl⟩⟩ := row_keeps_request hrow hb
      · exact .inl hbusy
      · exact .inr ⟨hp, rfl, rfl⟩
    · exact .inl hb
    · exact absurd hs (hreset rest)
    · exact .inl hb
    · exact .inl hb

/-! ### The range check -/

theorem maxAddress_pos (c : Config) : 0 < c.maxAddress := Nat.succ_pos _

/-- The corner cases of 44_host_operations R191. -/
theorem outOfRange_corners (c : Config) :
    outOfRange c 0 0 = false ∧ outOfRange c 0 c.maxAddress = false ∧ outOfRange c 0 (c.maxAddress + 1) = true ∧
    outOfRange c (c.maxAddress - 1) 1 = false ∧ outOfRange c (c.maxAddress - 1) 2 = true ∧
    outOfRange c (c.maxAddress - 1) 0 = false ∧ outOfRange c c.maxAddress 0 = true ∧ outOfRange c c.maxAddress 1 = true ∧
    (c.maxAddress < 2 * (2 ^ c.operandWidth - 1) →
      outOfRange c (2 ^ c.operandWidth - 1) (2 ^ c.operandWidth - 1) = true) := by
  have := maxAddress_pos c
  simp only [inRange_iff, outOfRange_iff]
  omega

/-- Settles O23: the comparison as arithmetic, and the range check's three rows. -/
theorem rangeCheck : Obligations.RangeCheck := by
  refine ⟨fun c A N => ⟨outOfRange_iff c A N, inRange_iff c A N⟩, outOfRange_corners, fun s t hturn hp => ?_⟩
  obtain ⟨u, hu⟩ := checkRow_total t
  refine ⟨u, (step_of_turn hturn).trans ((row_check hp).trans hu), ?_⟩
  rcases checkRow_cases hu with ⟨ho, rfl⟩ | ⟨ho, -, rfl⟩ | ⟨ho, -, rfl⟩ <;> simp [ho]

/-! ### The frame of a step -/

/-- `t` is `s` but for the phase, the trace, the port and the registers that the silent rows write, each in its own phase. -/
def SilentOnly (s t : State) : Prop :=
  ∃ p tr requests rstat cur n i,
    t = { s with phase := p, trace := tr, requests := requests, rstat := rstat, cur := cur, n := n, i := i } ∧
      (s.phase ≠ .check → rstat = s.rstat ∧ cur = s.cur) ∧ (s.phase ≠ .split → n = s.n) ∧ (s.phase ≠ .pollTest → i = s.i)

theorem silentOnly_of_kept (p : Phase) (tr : List Event) (requests : List Request) :
    SilentOnly s { s with phase := p, trace := tr, requests := requests } :=
  ⟨_, _, _, _, _, _, _, rfl, fun _ => ⟨rfl, rfl⟩, fun _ => rfl, fun _ => rfl⟩

theorem checkRow_silentOnly (hp : s.phase = .check) (h : checkRow s = .next t) : SilentOnly s t := by
  rcases checkRow_cases h with ⟨-, rfl⟩ | ⟨-, -, rfl⟩ | ⟨-, -, rfl⟩
  all_goals exact ⟨_, _, _, _, _, _, _, rfl, fun hc => absurd hp hc, fun _ => rfl, fun _ => rfl⟩

theorem splitRow_silentOnly (hp : s.phase = .split) (h : splitRow s = .next t) : SilentOnly s t := by
  rcases splitRow_cases h with ⟨-, rfl⟩ | ⟨-, rfl⟩
  · exact silentOnly_of_kept _ _ _
  · exact ⟨_, _, _, _, _, _, _, rfl, fun _ => ⟨rfl, rfl⟩, fun hc => absurd hp hc, fun _ => rfl⟩

theorem pollTestRow_silentOnly (hp : s.phase = .pollTest) (h : pollTestRow s = .next t) : SilentOnly s t := by
  rcases pollTestRow_cases h with ⟨-, rfl⟩ | ⟨-, -, rfl⟩ | ⟨-, -, -, rfl⟩ | ⟨-, -, -, rfl⟩
  · exact silentOnly_of_kept _ _ _
  · exact silentOnly_of_kept _ _ _
  · exact silentOnly_of_kept _ _ _
  · exact ⟨_, _, _, _, _, _, _, rfl, fun _ => ⟨rfl, rfl⟩, fun _ => rfl, fun hc => absurd hp hc⟩

/-- Everywhere but in S_IDLE the step is the refusal, a silent row, or none. -/
theorem exec_silentOnly (hi : IsTransfer i) (hp : s.phase ≠ .idle) (h : exec i s = .next t) : SilentOnly s t := by
  by_cases hu : s.phase = .uninit
  · have ht : exec i s = .next (refuseRequest s) := by
      rcases hi with ⟨a, n, b, rfl⟩ | ⟨a, n, b, rfl⟩ <;> simp only [exec, execHostRead, execHostWrite, hu]
    cases ht.symm.trans h
    exact silentOnly_of_kept _ _ _
  by_cases hf : frameInFlight s = none
  · cases hq : s.phase <;> simp only [frameInFlight, hq, reduceCtorEq] at hf
    case uninit => exact absurd hq hu
    case idle => exact absurd hq hp
    case check => exact checkRow_silentOnly hq ((exec_check hi hq).symm.trans h)
    case split => exact splitRow_silentOnly hq ((exec_split hi hq).symm.trans h)
    case pollTest => exact pollTestRow_silentOnly hq ((exec_pollTest hi hq).symm.trans h)
    case resp =>
      cases (exec_resp hi hq).symm.trans h
      exact silentOnly_of_kept _ _ _
  · cases (exec_of_frameInFlight hi hf).symm.trans h
    exact silentOnly_of_kept _ _ _

/-- INIT writes the phase, the trace and the port, and in S_UNINIT the lines. -/
theorem execInit_frame (h : execInit s = .next t) :
    ∃ p tr requests cs le, t = { s with phase := p, trace := tr, requests := requests, csSel := cs, linkEn := le } ∧
      (s.phase ≠ .uninit → cs = s.csSel ∧ le = s.linkEn) := by
  by_cases hu : s.phase = .uninit
  · cases (execInit_uninit hu).symm.trans h
    exact ⟨_, _, _, _, _, rfl, fun hc => absurd hu hc⟩
  by_cases hi : s.phase = .idle
  · cases (execInit_idle hi).symm.trans h
    exact ⟨_, _, _, _, _, rfl, fun _ => ⟨rfl, rfl⟩⟩
  · cases (execInit_busy (busy_iff.2 ⟨hu, hi⟩)).symm.trans h
    exact ⟨_, _, _, _, _, rfl, fun _ => ⟨rfl, rfl⟩⟩

/-- Settles O28: INIT by its frame, the other two by their acceptance in S_IDLE and the silent rows' frame elsewhere. -/
theorem hostOperationFrame : Obligations.HostOperationFrame := by
  intro i s t hi h
  rcases hi with rfl | hi
  · obtain ⟨_, _, _, _, _, rfl, hlines⟩ := execInit_frame h
    simpa using hlines
  by_cases hp : s.phase = .idle
  · rcases hi with ⟨a, n, b, rfl⟩ | ⟨a, n, b, rfl⟩
    · cases (exec_hostRead_idle hp a n b).symm.trans h
      simp [hp, acceptRequest]
    · cases (exec_hostWrite_idle hp a n b).symm.trans h
      simp [hp, acceptRequest]
  · obtain ⟨_, _, _, _, _, _, _, rfl, hcheck, hsplit, hpoll⟩ := exec_silentOnly hi hp h
    simpa using ⟨hcheck, hsplit, hpoll⟩

end Sys2Proof.Machine
end

section
/-! SUPPORT. An operation from its acceptance to its response (44_host_operations R192, R197, R200): a controller that is busy
again with the port as it was has been busy all the time, and the response ends the operation. -/

namespace Sys2Proof.Machine

variable {s t u : State} {j k m : Nat}

/-! ### The port -/

/-- A row leaves no more requests on the port, and fewer if the controller becomes busy. -/
theorem row_port (h : Row s t) :
    t.requests.length ≤ s.requests.length ∧ (s.busy = false → t.busy = true → t.requests.length < s.requests.length) := by
  by_cases hb : s.busy = true
  · obtain ⟨-, -, -, -, hreq, -⟩ := row_keeps_request h hb
    rw [hreq]
    exact ⟨le_rfl, fun hb' => by simp [hb] at hb'⟩
  have hidle : s.phase = .uninit ∨ s.phase = .idle := by simpa [State.busy, Classical.or_iff_not_imp_left] using hb
  cases h with
  | waitUninit | waitIdle => exact ⟨le_rfl, fun hb' ht => by simp [hb'] at ht⟩
  | refuseUninit hp | refuseIdle hp | initIdle hp => exact ⟨by simp [leavePort], fun _ ht => by simp [busy_iff, hp] at ht⟩
  | initUninit => exact ⟨by simp [leavePort], fun _ ht => by simp [busy_iff] at ht⟩
  | acceptRead r rest _ hr | acceptWrite r rest _ hr => simp [acceptRequest, hr]
  | _ => rcases hidle with hp | hp <;> simp_all

theorem run_split (h : run (k + m) s = .next t) : ∃ u, run k s = .next u ∧ run m u = .next t := by
  induction k generalizing s with
  | zero => exact ⟨s, rfl, by rwa [Nat.zero_add] at h⟩
  | succ k ih =>
    rw [Nat.succ_add, run] at h
    rw [run]
    cases hs : step s with
    | next v => rw [hs] at h; exact ih h
    | fault | refused => rw [hs] at h; cases h

/-- A run with nothing scheduled is the controller's. -/
theorem run_port (hs : s.schedule = []) (h : run k s = .next t) :
    t.schedule = [] ∧ t.requests.length ≤ s.requests.length ∧
      (s.busy = false → t.busy = true → t.requests.length < s.requests.length) := by
  induction k generalizing s with
  | zero =>
    cases h
    exact ⟨hs, le_rfl, fun hb ht => by simp [hb] at ht⟩
  | succ k ih =>
    rw [run, step_of_empty_schedule hs] at h
    cases hc : controllerStep s with
    | fault | refused => rw [hc] at h; cases h
    | next u =>
      rw [hc] at h
      have hrow := controllerStep_row hc
      obtain ⟨hle, hlt⟩ := row_port hrow
      obtain ⟨hsched, hle', hlt'⟩ := ih ((row_schedule hrow).trans hs) h
      refine ⟨hsched, hle'.trans hle, fun hb ht => ?_⟩
      cases hu : u.busy with
      | false => exact (hlt' hu ht).trans_le hle
      | true => exact hle'.trans_lt (hlt hb hu)

/-! ### The end of an operation -/

/-- Between two states with the same requests on the port, the later one busy, the controller was busy all the time. -/
theorem busy_of_run (hs : s.schedule = []) (h : run k s = .next t) (hb : t.busy = true) (hr : t.requests = s.requests)
    (hj : j ≤ k) : ∃ u, run j s = .next u ∧ u.busy = true := by
  obtain ⟨m, rfl⟩ := Nat.exists_eq_add_of_le hj
  obtain ⟨u, hu, hrest⟩ := run_split h
  refine ⟨u, hu, ?_⟩
  obtain ⟨hsched, hle, -⟩ := run_port hs hu
  obtain ⟨-, -, hlt⟩ := run_port hsched hrest
  by_contra hnot
  have := hlt (by simpa using hnot) hb
  rw [hr] at this
  omega

/-- An operation that comes from its acceptance to S_RESP without another acceptance ends there. -/
theorem endsIn_of_resp (hs : s.schedule = []) (haccept : controllerStep s = .next u) (hrun : run k u = .next t)
    (hp : t.phase = .resp) (hr : t.requests = u.requests) : EndsIn (k + 2) s (respond t) := by
  have hu : u.schedule = [] := (row_schedule (controllerStep_row haccept)).trans hs
  obtain ⟨ht, -, -⟩ := run_port hu hrun
  refine ⟨by omega, ?_, rfl, fun j h1 hj => ?_⟩
  · rw [run_of_controllerStep hs haccept, run_succ hrun, step_of_empty_schedule ht, row_resp hp, respRow]
  · obtain ⟨j, rfl⟩ := Nat.exists_eq_add_of_le' h1
    rw [run_of_controllerStep hs haccept]
    exact busy_of_run hu hrun (by rw [busy_iff, hp]; decide) hr (by omega)

end Sys2Proof.Machine
end

section
/-! SUPPORT. Whole operations against an idle reference device, in counted steps: a run is carried on by a row, a poll, a WREN, a
WRITE, a WRDI or a READ at a time. -/

namespace Sys2Proof.Machine

variable {s₀ s t : State} {k : Nat}

/-! ### A run carried on by a transaction -/

/-- `s` with transactions behind it: the lines inactive, the device having become `d`, and the environment's inputs drawn from. -/
def State.served (s : State) (d : Device) (tr : List Event) (replies : List Byte) (delays : List Nat) (draws : Nat) : State :=
  { s with csSel := false, linkEn := false, device := d, trace := tr, replies := replies, delays := delays, draws := draws }

theorem run_row (h : run k s₀ = .next s) (hs : s.schedule = []) (hc : controllerStep s = .next t) : run (k + 1) s₀ = .next t := by
  rw [run_succ h, step_of_empty_schedule hs, hc]

theorem frameOver_reference {d : Device} (hk : d.kind = .reference) : d.frameOver = { d with frame := [] } := by
  simp [Device.frameOver, hk]

theorem run_rdsr_reference (h : run k s₀ = .next s) (hs : s.schedule = []) (hp : s.phase = .pollSel)
    (hk : s.device.kind = .reference) : ∃ tr replies delays draws sr, statusBusy sr = s.device.wip ∧ run (k + 5) s₀ =
      .next { s.served { s.device with frame := [] } tr replies delays draws with sr := sr, phase := .pollTest } := by
  obtain ⟨v, hv, -, hrun⟩ := rdsrTransaction s hp hs
  rw [delayDrawn_eq_tail, byteDrawn_eq_tail, byteDrawn_eq_tail] at hrun
  rw [← frameOver_reference hk]
  exact ⟨_, _, _, _, v, (hv hk).2, (run_add h 5).trans hrun⟩

theorem run_wren_reference (h : run k s₀ = .next s) (hs : s.schedule = []) (hp : s.phase = .wrenSel)
    (hk : s.device.kind = .reference) (hw : s.device.wip = false) : ∃ tr replies delays draws, run (k + 4) s₀ =
      .next { s.served { s.device with frame := [], wel := true } tr replies delays draws with phase := .wrSel } := by
  have hrun := run_wren (d := { s.device with frame := [], wel := true }) hs hp
    ((deselect_received_wren s.config hk).trans (by simp [hw]))
  rw [delayDrawn_eq_tail, byteDrawn_eq_tail] at hrun
  exact ⟨_, _, _, _, (run_add h 4).trans hrun⟩

/-- A device whose write cycle runs rejects the WRDI (20_memory R70). -/
theorem run_wrdi_reference (h : run k s₀ = .next s) (hs : s.schedule = []) (hp : s.phase = .wrdiSel)
    (hk : s.device.kind = .reference) (hw : s.device.wip = true) : ∃ tr replies delays draws, run (k + 4) s₀ =
      .next { s.served { s.device with frame := [] } tr replies delays draws with cur := s.cur + s.n, phase := .split } := by
  have hrun := run_wrdi (d := { s.device with frame := [] }) hs hp ((deselect_received_wrdi s.config hk).trans (by simp [hw]))
  rw [delayDrawn_eq_tail, byteDrawn_eq_tail] at hrun
  exact ⟨_, _, _, _, (run_add h 4).trans hrun⟩

/-- An idle device with its latch set takes the chunk. -/
theorem run_write_reference (h : run k s₀ = .next s) (hs : s.schedule = []) (hp : s.phase = .wrSel) (hr : InRange s)
    (hch : ChunkInv s) (hsrc : s.N ≤ s.src.length) (hk : s.device.kind = .reference) (hw : s.device.wip = false)
    (hl : s.device.wel = true) : ∃ tr replies delays draws, run (k + (s.n + 6)) s₀ =
      .next { s.served { s.device with frame := [], pend := cellsFrom s.cur (chunkData s), wip := true }
        tr replies delays draws with i := s.n, phase := .wrdiSel } := by
  have hlen := length_chunkData hch hsrc
  have hd := deselect_writeFrame s.config hk (writeAccepted_chunkData hch hr hlen)
  rw [addressField_cur hch hr, if_pos ⟨hw, hl⟩] at hd
  obtain ⟨-, -, hn, -⟩ := id hch
  obtain ⟨got, dur, replies, delays, draws, -, -, hrun⟩ := run_write_eq hs hp hn hlen hd
  exact ⟨_, replies, delays, draws, (run_add h _).trans hrun⟩

/-! ### A write within one page -/

/-- The write of one chunk, from its acceptance to S_RESP. -/
theorem run_writeOneChunk (hs : s.schedule = []) (hp : s.phase = .check) (hop : s.op = .write)
    (hr : outOfRange s.config s.A s.N = false) (hN : 1 ≤ s.N) (hpage : s.N ≤ toPageEnd s.config s.A) (hsrc : s.N ≤ s.src.length)
    (hk : s.device.kind = .reference) (hw : s.device.wip = false) :
    ∃ tr replies delays draws sr, run (s.N + 23) s =
      .next { s.served { s.device with frame := [], pend := cellsFrom s.A (s.src.take s.N), wip := true, wel := true }
        tr replies delays draws with
        sr := sr, rstat := .ok, n := s.N, i := s.N, cur := s.A + s.N, phase := .resp } := by
  obtain ⟨hA, hmax⟩ := (inRange_iff _ _ _).1 hr
  have hlen : chunkLength s.config s.A (s.A + s.N) = s.N := by
    unfold chunkLength
    omega
  have h1 := run_row (k := 0) (s₀ := s) rfl hs ((row_check hp).trans (checkRow_write hr hop))
  have h2 := run_row (t := { s with rstat := .ok, cur := s.A, n := s.N, phase := .pollSel }) h1 hs
    ((row_split rfl).trans ((splitRow_more (show s.A ≠ s.A + s.N by omega)).trans (by rw [hlen])))
  obtain ⟨tr₁, replies₁, delays₁, draws₁, sr, hsr, h3⟩ := run_rdsr_reference h2 hs rfl hk
  have h4 := run_row h3 hs ((row_pollTest rfl).trans (pollTestRow_write (hsr.trans hw) hop))
  obtain ⟨tr₂, replies₂, delays₂, draws₂, h5⟩ := run_wren_reference h4 hs rfl hk hw
  obtain ⟨tr₃, replies₃, delays₃, draws₃, h6⟩ := run_write_reference h5 hs rfl ⟨hA, hmax, rfl⟩
    ⟨hop, le_rfl, hN, hpage, le_rfl⟩ hsrc hk hw rfl
  obtain ⟨tr₄, replies₄, delays₄, draws₄, h7⟩ := run_wrdi_reference h6 hs rfl hk rfl
  have h8 := run_row h7 hs ((row_split rfl).trans (splitRow_done rfl))
  have hdata : chunkData { s with cur := s.A, n := s.N } = s.src.take s.N := by simp [chunkData]
  refine ⟨tr₄, replies₄, delays₄, draws₄, sr, ?_⟩
  rw [← hdata]
  refine Eq.trans (congrArg (run · s) ?_) h8
  simp only [State.served]
  omega

/-- Settles O57: acceptance, the one chunk, the response. -/
theorem writeOnePage : Obligations.WriteOnePage := by
  intro s r rest hp hs hreq hop ha hn hr hN hpage hbuf hk hw
  have haccept := controllerStep_acceptWrite hp hreq hop ha hn
  obtain ⟨tr, replies, delays, draws, sr, hrun⟩ := run_writeOneChunk
    (s := { acceptRequest .write r.address r.count s with src := r.buffer }) hs rfl rfl hr hN hpage hbuf hk hw
  refine ⟨_, endsIn_of_resp hs haccept hrun rfl rfl, rfl, ?requests, ?trace, rfl, ?pend, rfl, fun _ => rfl⟩
  case requests => simp [State.served, acceptRequest, hreq]
  case trace => simp
  case pend =>
    show cellsFrom r.address (r.buffer.take r.count) = (List.range' r.address r.count).zip r.buffer
    rw [cellsFrom_eq_zip, List.length_take_of_le hbuf, List.zip_eq_zip_take_min (l₂ := r.buffer)]
    simp [hbuf]

/-! ### A read -/

/-- `got` stored in the buffer from `i` on. -/
theorem getElem?_stored {dst got : List Byte} {i m : Nat} (hlen : got.length = m) (hfit : i + m ≤ dst.length) (x : Nat) :
    (dst.take i ++ got ++ dst.drop (i + m))[x]? = if i ≤ x ∧ x < i + m then got[x - i]? else dst[x]? := by
  subst hlen
  have htake : (dst.take i).length = i := List.length_take_of_le (by omega)
  by_cases h1 : x < i
  · rw [if_neg (by omega), List.append_assoc, List.getElem?_append_left (by omega), List.getElem?_take_of_lt h1]
  · rw [List.append_assoc, List.getElem?_append_right (by omega), htake]
    by_cases h2 : x < i + got.length
    · rw [if_pos (by omega), List.getElem?_append_left (by omega)]
    · rw [if_neg (by omega), List.getElem?_append_right (by omega), List.getElem?_drop]
      congr 1
      omega

/-- `dst` is the buffer of `s` with the array's bytes from `A + i` on over it, as far as position `stop`. -/
def ReadInto (s : State) (stop : Nat) (dst : List Byte) : Prop :=
  dst.length = s.dst.length ∧
    ∀ x, dst[x]? = if s.i ≤ x ∧ x < stop then some (s.device.mem.read (s.A + x)) else s.dst[x]?

/-- One byte, then the rest. -/
theorem ReadInto.trans {s u : State} {stop : Nat} {dst : List Byte} (h : ReadInto s (s.i + 1) u.dst) (h' : ReadInto u stop dst)
    (hi : u.i = s.i + 1) (hm : u.device.mem = s.device.mem) (hA : u.A = s.A) (hlt : s.i < stop) : ReadInto s stop dst := by
  obtain ⟨hlen, hbytes⟩ := h
  obtain ⟨hlen', hbytes'⟩ := h'
  refine ⟨hlen'.trans hlen, fun x => ?_⟩
  rw [hbytes', hbytes, hi, hm, hA]
  rcases Nat.lt_trichotomy x s.i with hx | rfl | hx
  · rw [if_neg (by omega), if_neg (by omega), if_neg (by omega)]
  · rw [if_neg (by omega), if_pos (by omega), if_pos (by omega)]
  · by_cases hxs : x < stop
    · rw [if_pos (by omega), if_pos (by omega)]
    · rw [if_neg (by omega), if_neg (by omega), if_neg (by omega)]

/-- A READ of an idle device stores the array's bytes. -/
theorem run_read_reference (h : run k s₀ = .next s) (hs : s.schedule = []) (hp : s.phase = .rdSel) (hi : s.i < s.N) {m : Nat}
    (hm : pendingPositions s = m) (hle : s.i + m ≤ s.N) (hfit : s.N ≤ s.dst.length) (hmax : s.A + s.N ≤ s.config.maxAddress)
    (hk : s.device.kind = .reference) (hw : s.device.wip = false) :
    ∃ tr replies delays draws dst, run (k + (m + 6)) s₀ =
      .next { s.served { s.device with frame := [] } tr replies delays draws with
        i := s.i + m, dst := dst, phase := if s.i + m < s.N then .rdSel else .resp } ∧ ReadInto s (s.i + m) dst := by
  obtain ⟨-, -, g0, g1, g2, got, d, replies, delays, draws, hlen, -, hgot, hrun⟩ :=
    readTransaction s m hp hs hi hm.symm (hle.trans hfit)
  rw [← frameOver_reference hk]
  refine ⟨_, replies, delays, draws, _, (run_add h _).trans hrun, by simp [hlen]; omega, fun x => ?_⟩
  rw [getElem?_stored hlen (hle.trans hfit)]
  split
  case isTrue hx =>
    rw [hgot hk hw (by omega) _ (by omega)]
    congr 2
    omega
  case isFalse => rfl

/-- Under PerByte a READ for each byte that is left. -/
theorem run_reads_reference {n : Nat} (h : run k s₀ = .next s) (hs : s.schedule = []) (hp : s.phase = .rdSel)
    (hf : s.config.readFraming = .perByte) (hN : s.i + (n + 1) = s.N) (hfit : s.N ≤ s.dst.length)
    (hmax : s.A + s.N ≤ s.config.maxAddress) (hk : s.device.kind = .reference) (hw : s.device.wip = false) :
    ∃ tr replies delays draws dst, run (k + 7 * (n + 1)) s₀ =
      .next { s.served { s.device with frame := [] } tr replies delays draws with i := s.N, dst := dst, phase := .resp } ∧
      ReadInto s s.N dst := by
  induction n generalizing s k with
  | zero =>
    obtain ⟨tr, replies, delays, draws, dst, hrun, hdst⟩ :=
      run_read_reference (m := 1) h hs hp (by omega) (by simp only [pendingPositions, hf]) (by omega) hfit hmax hk hw
    rw [if_neg (by omega), hN] at hrun
    rw [hN] at hdst
    exact ⟨_, _, _, _, dst, hrun, hdst⟩
  | succ n ih =>
    obtain ⟨tr, replies, delays, draws, dst, hrun, hdst⟩ :=
      run_read_reference (m := 1) h hs hp (by omega) (by simp only [pendingPositions, hf]) (by omega) hfit hmax hk hw
    rw [if_pos (by omega)] at hrun
    obtain ⟨tr', replies', delays', draws', dst', hrun', hdst'⟩ := ih hrun hs rfl hf (by simp [State.served]; omega)
      (hfit.trans_eq hdst.1.symm) hmax hk hw
    refine ⟨tr', replies', delays', draws', dst', ?_, hdst.trans hdst' rfl rfl rfl (by omega)⟩
    rw [show k + 7 * (n + 1 + 1) = k + (1 + 6) + 7 * (n + 1) by omega]
    exact hrun'

/-- The steps of the READ transactions for `n` bytes (44_host_operations R202). -/
def readSteps (c : Config) (n : Nat) : Nat :=
  if n = 0 then 0
  else
    match c.readFraming with
    | .burst => n + 6
    | .perByte => 7 * n

/-- A read, from its acceptance to S_RESP. -/
theorem run_readOperation (hs : s.schedule = []) (hp : s.phase = .check) (hop : s.op = .read)
    (hr : outOfRange s.config s.A s.N = false) (hfit : s.N ≤ s.dst.length) (hk : s.device.kind = .reference)
    (hw : s.device.wip = false) :
    ∃ tr replies delays draws sr i dst, run (7 + readSteps s.config s.N) s =
      .next { s.served { s.device with frame := [] } tr replies delays draws with
        sr := sr, rstat := .ok, i := i, dst := dst, phase := .resp } ∧
      ReadInto { s with i := 0 } s.N dst := by
  obtain ⟨-, hmax⟩ := (inRange_iff _ _ _).1 hr
  have h1 := run_row (k := 0) (s₀ := s) rfl hs ((row_check hp).trans (checkRow_read hr hop))
  obtain ⟨tr, replies, delays, draws, sr, hsr, h2⟩ := run_rdsr_reference h1 hs rfl hk
  by_cases hN : s.N = 0
  · have h3 := run_row h2 hs ((row_pollTest rfl).trans (pollTestRow_readNone (hsr.trans hw) hop hN))
    rw [readSteps, if_pos hN]
    exact ⟨tr, replies, delays, draws, sr, s.i, s.dst, h3, rfl, fun x => by simp [hN]⟩
  have h3 := run_row h2 hs ((row_pollTest rfl).trans (pollTestRow_read (hsr.trans hw) hop hN))
  rw [readSteps, if_neg hN]
  cases hf : s.config.readFraming with
  | burst =>
    obtain ⟨tr, replies, delays, draws, dst, h4, hdst⟩ := run_read_reference (m := s.N) h3 hs rfl (Nat.pos_of_ne_zero hN)
      (by simp [pendingPositions, State.served, hf]) (Nat.zero_add _).le hfit hmax hk hw
    rw [if_neg (by simp [State.served])] at h4
    refine ⟨tr, replies, delays, draws, sr, 0 + s.N, dst, ?_, by simpa [ReadInto, State.served] using hdst⟩
    rw [show 7 + (s.N + 6) = 0 + 1 + 5 + 1 + (s.N + 6) by omega]
    exact h4
  | perByte =>
    obtain ⟨n, hn⟩ := Nat.exists_eq_succ_of_ne_zero hN
    obtain ⟨tr, replies, delays, draws, dst, h4, hdst⟩ := run_reads_reference (n := n) h3 hs rfl hf
      (by simp [State.served]; omega) hfit hmax hk hw
    refine ⟨tr, replies, delays, draws, sr, s.N, dst, ?_, hdst⟩
    rw [show 7 + 7 * s.N = 0 + 1 + 5 + 1 + 7 * (n + 1) by omega, h4]
    rfl

/-- Settles O56: acceptance, the poll, the READ transactions, the response. -/
theorem readDelivers : Obligations.ReadDelivers := by
  intro s r rest hp hs hreq hop ha hn hr hbuf hk hw
  have haccept := controllerStep_acceptRead hp hreq hop ha hn
  obtain ⟨tr, replies, delays, draws, sr, i, dst, hrun, -, hdst⟩ := run_readOperation
    (s := { acceptRequest .read r.address r.count s with dst := r.buffer }) hs rfl rfl hr hbuf hk hw
  have hend := endsIn_of_resp hs haccept hrun rfl rfl
  rw [Nat.add_right_comm] at hend
  refine ⟨_, hend, rfl, ?requests, ?trace, fun x hx => ?inside, fun x hx => ?outside, fun _ => rfl⟩
  case requests => simp [State.served, acceptRequest, hreq]
  case trace => simp
  case inside => exact (hdst x).trans (if_pos ⟨Nat.zero_le _, hx⟩)
  case outside => exact (hdst x).trans (if_neg (by simp only [acceptRequest]; omega))

end Sys2Proof.Machine
end

section
/-! SUPPORT. What every ended operation has in common (44_host_operations R197, R200): it was accepted, the controller's rows and
the device's `Complete` then kept what acceptance established, and the response was the last row. -/

namespace Sys2Proof.Machine

variable {s t u : State} {c : Config} {op : HostOp} {r : Request} {rest : List Request} {pre : List Event}

/-! ### From the first step to the response -/

/-- A step that nobody else disturbs is the end of a write cycle or a row. -/
theorem step_undisturbed (hq : Undisturbed s) (h : step s = .next t) :
    Undisturbed t ∧ (t.withSchedule [] = { s.withSchedule [] with device := s.device.complete } ∨
      controllerStep (s.withSchedule []) = .next (t.withSchedule [])) := by
  rw [step_eq_takeMove] at h
  have hm : (s.schedule.getD 0 .controller).isQuiet = true := by
    cases hs : s.schedule with
    | nil => rfl
    | cons m rest => exact hq m (by simp [hs])
  have hsched : t.schedule = s.schedule.tail := takeMove_schedule hm h
  have hmove : takeMove (s.schedule.getD 0 .controller) (s.withSchedule []) = .next (t.withSchedule []) :=
    takeMove_withSchedule (s := s.withSchedule s.schedule.tail) (q := []) h
  refine ⟨fun m hmem => hq m (List.mem_of_mem_tail (hsched ▸ hmem)), ?_⟩
  cases hmv : s.schedule.getD 0 .controller with
  | reset | present _ | hostStore _ _ => rw [hmv] at hm; cases hm
  | complete =>
    rw [hmv] at hmove
    exact .inl (Host.Outcome.next.inj hmove).symm
  | controller =>
    rw [hmv] at hmove
    exact .inr hmove

/-- What acceptance establishes, and every row of a busy controller and every `Complete` keep, holds when the response comes. -/
theorem endsIn_respond {I : State → Prop} {n : Nat} (hq : Undisturbed s) (hp : s.phase = .idle) (h : EndsIn n s t)
    (haccept : controllerStep (s.withSchedule []) = .next u) (hfirst : I u)
    (hrow : ∀ u v, u.busy = true → v.busy = true → I u → Row u v → I v)
    (hcomplete : ∀ u, I u → I { u with device := u.device.complete }) :
    ∃ u, I u ∧ u.phase = .resp ∧ t.withSchedule [] = respond u := by
  obtain ⟨hn, hrun, hpt, hbusy⟩ := h
  have hinv : ∀ k, 1 ≤ k → k < n → ∃ u, run k s = .next u ∧ Undisturbed u ∧ u.busy = true ∧ I (u.withSchedule []) := by
    intro k h1
    induction k, h1 using Nat.le_induction with
    | base =>
      intro hk
      obtain ⟨u, hu, hb⟩ := hbusy 1 le_rfl hk
      obtain ⟨hqu, hcomp | hacc⟩ := step_undisturbed hq ((run_succ (k := 0) rfl).symm.trans hu)
      · have hidle : u.phase = .idle := (congrArg State.phase hcomp).trans hp
        exact absurd hidle (busy_iff.1 hb).2
      · exact ⟨u, hu, hqu, hb, Host.Outcome.next.inj (haccept.symm.trans hacc) ▸ hfirst⟩
    | succ k h1 ih =>
      intro hk
      obtain ⟨u, hu, hqu, hb, hI⟩ := ih (by omega)
      obtain ⟨v, hv, hbv⟩ := hbusy (k + 1) (by omega) hk
      obtain ⟨hqv, hcomp | hc⟩ := step_undisturbed hqu ((run_succ hu).symm.trans hv)
      · exact ⟨v, hv, hqv, hbv, hcomp ▸ hcomplete _ hI⟩
      · exact ⟨v, hv, hqv, hbv, hrow (u.withSchedule []) _ hb hbv hI (controllerStep_row hc)⟩
  obtain ⟨m, rfl⟩ : ∃ m, n = m + 1 := ⟨n - 1, by omega⟩
  obtain ⟨u, hu, hqu, hb, hI⟩ := hinv m (by omega) (by omega)
  refine ⟨_, hI, ?_⟩
  obtain ⟨-, hcomp | hc⟩ := step_undisturbed hqu ((run_succ hu).symm.trans hrun)
  · have hidle : u.phase = .idle := (congrArg State.phase hcomp).symm.trans hpt
    exact absurd hidle (busy_iff.1 hb).2
  · obtain ⟨-, -, -, -, -, hbt | hresp⟩ := row_keeps_request (controllerStep_row hc) hb
    · exact absurd hpt (busy_iff.1 hbt).2
    · exact hresp

theorem phase_ne_resp_of_row (h : Row s t) (hs : s.busy = true) (ht : t.busy = true) : s.phase ≠ .resp := by
  intro hp
  have hstep := controllerStep_of_row h hs
  rw [row_resp hp, respRow] at hstep
  cases hstep
  cases ht

/-! ### In service -/

/-- The controller is busy with request `r`; its registers are in their bounds and the lines as the phase says. -/
structure InService (c : Config) (op : HostOp) (r : Request) (rest : List Request) (s : State) : Prop where
  serving : Serving c op r rest s
  registers : PhaseInv s
  lines : LinesInv s

theorem Serving.outOfRange (h : Serving c op r rest s) : outOfRange s.config s.A s.N = outOfRange c r.address r.count := by
  rw [h.config, h.address, h.count]

theorem row_keeps_inService (h : Row s t) (ht : t.busy = true) (hs : InService c op r rest s) : InService c op r rest t := by
  obtain ⟨hserving, hregisters, hlines⟩ := hs
  refine ⟨(row_keeps_serving h hserving).resolve_right fun hresp => ?_, row_keeps_phaseInv h hregisters,
    (linesInv_of_lineEffect (row_lineEffect h) hlines).1⟩
  exact phase_ne_resp_of_row h hserving.busy ht hresp.1

theorem complete_keeps_inService (hs : InService c op r rest s) :
    InService c op r rest { s with device := s.device.complete } :=
  ⟨complete_keeps_serving hs.serving, hs.registers, hs.lines⟩

/-- The state once an operation has ended (44_host_operations R200). -/
theorem InService.respond (hs : InService c op r rest s) (hp : s.phase = .resp) :
    (respond s).csSel = false ∧ (respond s).linkEn = false ∧ (respond s).requests = rest ∧
      ((respond s).rstat = .outOfRange ↔ outOfRange c r.address r.count = true) := by
  obtain ⟨hserving, hregisters, hlink, hsel⟩ := hs
  have hcs : s.csSel = false := by rw [hsel, hp]; rfl
  simp only [PhaseInv, hp, hserving.config, hserving.address, hserving.count] at hregisters
  exact ⟨hcs, hlink.trans hcs, hserving.requests, hregisters⟩

/-! ### A request out of range -/

/-- Nothing but its request has been put in the trace. -/
def Unanswered (pre : List Event) (s : State) : Prop :=
  (s.phase = .check ∨ s.phase = .resp) ∧ s.trace = pre ++ [.req s.op s.A s.N]

/-- The range check raises OutOfRange and does nothing else (60_exceptions R221). -/
theorem row_keeps_unanswered (h : Row s t) (hs : s.busy = true) (ht : t.busy = true)
    (ho : outOfRange s.config s.A s.N = true) (hu : Unanswered pre s) : Unanswered pre t ∧ t.dst = s.dst := by
  obtain ⟨hp | hp, htrace⟩ := hu
  · have hstep := controllerStep_of_row h hs
    rw [row_check hp, checkRow_out ho] at hstep
    cases hstep
    exact ⟨⟨.inr rfl, htrace⟩, rfl⟩
  · exact absurd hp (phase_ne_resp_of_row h hs ht)

theorem trace_of_unanswered (hp : s.phase = .resp) (hi : PhaseInv s) (ho : outOfRange s.config s.A s.N = true)
    (hu : Unanswered pre s) : (respond s).trace = pre ++ [.req s.op s.A s.N, .resp .outOfRange] := by
  simp only [PhaseInv, hp, ho, iff_true] at hi
  simp [hu.2, hi]

end Sys2Proof.Machine
end

section
/-! SUPPORT. Every write that ends, against any device, has one of the traces of 44_host_operations R195. -/

namespace Sys2Proof.Machine

variable {s t : State} {c : Config} {r : Request} {rest : List Request} {pre : List Event}

/-- A write in service, with its trace so far. -/
structure WriteInService (c : Config) (r : Request) (rest : List Request) (pre : List Event) (s : State) : Prop where
  service : InService c .write r rest s
  source : s.src = r.buffer
  rejected : outOfRange c r.address r.count = true → Unanswered pre s
  traced : outOfRange c r.address r.count = false → WriteTraced pre s

theorem writeInService_accept (hp : s.phase = .idle) (hl : LinesInv s) (hr : s.requests = r :: rest) :
    WriteInService s.config r rest s.trace { acceptRequest .write r.address r.count s with src := r.buffer } where
  service := ⟨⟨rfl, rfl, rfl, rfl, rfl, by simp [hr]⟩, trivial, hl.1, by rw [acceptRequest, hl.2, hp]; rfl⟩
  source := rfl
  rejected := fun _ => ⟨.inl rfl, rfl⟩
  traced := fun _ => ⟨[], [], rfl, .none, (chunkTraced_of_not_inTransaction rfl).2 ⟨[], rfl, by simp⟩⟩

theorem row_keeps_writeInService (h : Row s t) (ht : t.busy = true) (hs : WriteInService c r rest pre s) :
    WriteInService c r rest pre t := by
  obtain ⟨hservice, hsrc, hrejected, htraced⟩ := hs
  obtain ⟨hserving, hregisters, -⟩ := id hservice
  obtain ⟨-, -, -, hsrc', -, -⟩ := row_keeps_request h hserving.busy
  refine ⟨row_keeps_inService h ht hservice, hsrc'.trans hsrc, fun ho => ?_, fun ho => ?_⟩
  · exact (row_keeps_unanswered h hserving.busy ht (hserving.outOfRange.trans ho) (hrejected ho)).1
  · exact row_keeps_writeTraced h hserving.busy hserving.op (hserving.outOfRange.trans ho) hregisters
      (phase_ne_resp_of_row h hserving.busy ht) (htraced ho)

theorem WriteInService.trace (hs : WriteInService c r rest pre s) (hp : s.phase = .resp) :
    ∃ tr, (respond s).trace = pre ++ tr ∧ IsWriteTrace c r.address r.count r.buffer tr := by
  obtain ⟨⟨hserving, hregisters, -⟩, hsrc, hrejected, htraced⟩ := hs
  cases ho : outOfRange c r.address r.count with
  | true =>
    have htr := trace_of_unanswered hp hregisters (hserving.outOfRange.trans ho) (hrejected ho)
    rw [hserving.op, hserving.address, hserving.count] at htr
    exact ⟨_, htr, by rw [IsWriteTrace, if_pos ho]⟩
  | false =>
    have hin := hserving.outOfRange.trans ho
    have htr := isWriteTrace_of_resp hp hin (rstat_ok_of_resp hp hin hregisters) (htraced ho)
    rwa [hserving.config, hserving.address, hserving.count, hsrc] at htr

/-- Settles O52: the request is accepted, and every row and every `Complete` keep the trace among those of the set. -/
theorem writeTraceSound : Obligations.WriteTraceSound := by
  intro s t r rest n hp hl hreq hop ha hn hq hend
  have haccept := controllerStep_acceptWrite (s := s.withSchedule []) hp hreq hop ha hn
  have hstart := writeInService_accept (s := s.withSchedule []) hp hl hreq
  obtain ⟨u, hu, hpu, ht⟩ := endsIn_respond hq hp hend haccept hstart (fun u v _ hb hI hrow => row_keeps_writeInService hrow hb hI)
    (fun u hI => ⟨complete_keeps_inService hI.service, hI.source, hI.rejected, hI.traced⟩)
  have hfinal := hu.service.respond hpu
  have htrace := hu.trace hpu
  rw [← ht] at hfinal htrace
  obtain ⟨h1, h2, h3, h4⟩ := hfinal
  exact ⟨h1, h2, h3, h4, htrace⟩

end Sys2Proof.Machine
end

section
/-! SUPPORT. The trace of a read in progress (44_host_operations R195): the polls, then the READ transactions behind it and the
events of the one that is open, whose received bytes are those in the destination buffer. -/

namespace Sys2Proof.Machine

variable {s t : State} {c : Config} {pre : List Event}

/-! ### READ transactions -/

theorem isReads_snoc {a : Nat} {vs : List Byte} {v : Byte} {trs tr : List Event} (h : IsReads c a vs trs)
    (hr : IsRead c (a + vs.length) [v] tr) : IsReads c a (vs ++ [v]) (trs ++ tr) := by
  induction h with
  | none a => simpa using IsReads.byte a v [] tr [] hr (.none _)
  | byte a w vs tr' trs hw _ ih =>
    rw [List.append_assoc]
    exact .byte a w _ tr' _ hw (ih (by rwa [List.length_cons, Nat.add_comm vs.length, ← Nat.add_assoc] at hr))

/-- The READ transactions behind it, which have delivered `vs`: under Burst there are none until the response. -/
def ReadsBefore (c : Config) (a : Nat) (vs : List Byte) (tr : List Event) : Prop :=
  match c.readFraming with
  | .burst => vs = [] ∧ tr = []
  | .perByte => IsReads c a vs tr

theorem readsBefore_nil (c : Config) (a : Nat) : ReadsBefore c a [] [] := by
  unfold ReadsBefore
  split
  · exact ⟨rfl, rfl⟩
  · exact .none a

/-- The events of the transaction of the phase, where `got` has come back in it. -/
def linkEvents (s : State) (got : List Byte) : List Event :=
  if s.phase.inTransaction = true then
    .sel :: (List.zipWith .xfer (sentBytes s) got ++ if s.phase.holding = true then [.desel] else [])
  else []

/-- The buffer holds the bytes `vs` of the transactions behind it and the data among the bytes `got` of the open one. -/
def Delivered (s : State) (vs got : List Byte) : Prop := s.dst.take s.i = vs ++ got.drop 3 ∧ vs.length + (got.length - 3) = s.i

/-- Inside the READ transactions: the polls, the transactions behind it, and what has come back in the open one. -/
def ReadOpen (pre : List Event) (s : State) : Prop :=
  ∃ idle part vs got, IsIdle s.config idle ∧ ReadsBefore s.config s.A vs part ∧ got.length = (sentBytes s).length ∧
    Delivered s vs got ∧ s.trace = pre ++ .req .read s.A s.N :: (idle ++ part ++ linkEvents s got)

/-- Before the response. -/
def ReadOver (pre : List Event) (s : State) : Prop :=
  ∃ idle part, IsIdle s.config idle ∧ (s.dst.take s.N).length = s.N ∧ IsReadPart s.config s.A (s.dst.take s.N) part ∧
    s.trace = pre ++ .req .read s.A s.N :: (idle ++ part)

/-- The trace since the read began. -/
def ReadTraced (pre : List Event) (s : State) : Prop :=
  match s.phase with
  | .check | .pollSel | .pollOp | .pollDummy | .pollDesel | .pollHold | .pollTest =>
    ChunkTraced (pre ++ [.req .read s.A s.N]) s
  | .rdSel | .rdOp | .rdAh | .rdAl | .rdData | .rdDesel | .rdHold => ReadOpen pre s
  | .resp => ReadOver pre s
  | _ => False

/-! ### The rows inside a READ transaction -/

theorem linkEvents_of_not_inTransaction (h : s.phase.inTransaction = false) (got : List Byte) : linkEvents s got = [] := by
  simp [linkEvents, h]

theorem linkEvents_of_selected (h : s.phase.selected = true) (got : List Byte) :
    linkEvents s got = .sel :: List.zipWith .xfer (sentBytes s) got := by
  have hh : s.phase.holding = false := by
    by_contra hh
    simp [selected_eq_false_of_holding (by simpa using hh)] at h
  simp [linkEvents, Phase.inTransaction, h, hh]

theorem linkEvents_of_holding (h : s.phase.holding = true) (got : List Byte) :
    linkEvents s got = .sel :: (List.zipWith .xfer (sentBytes s) got ++ [.desel]) := by
  simp [linkEvents, Phase.inTransaction, h]

theorem delivered_early {got : List Byte} {v : Byte} {vs : List Byte} (hlen : got.length ≤ 2) (hdst : t.dst = s.dst)
    (hi : t.i = s.i) (h : Delivered s vs got) : Delivered t vs (got ++ [v]) := by
  obtain ⟨htake, hcount⟩ := h
  rw [Delivered, hdst, hi, htake, List.drop_eq_nil_of_le (by omega), List.drop_eq_nil_of_le (by simp; omega)]
  refine ⟨rfl, ?_⟩
  rw [List.length_append, List.length_singleton]
  omega

theorem delivered_data {got : List Byte} {v : Byte} {vs : List Byte} (hlen : 3 ≤ got.length) (hlt : s.i < s.dst.length)
    (hdst : t.dst = s.dst.set s.i v) (hi : t.i = s.i + 1) (h : Delivered s vs got) : Delivered t vs (got ++ [v]) := by
  obtain ⟨htake, hcount⟩ := h
  rw [Delivered, hdst, hi, List.take_add_one, List.take_set_of_le le_rfl, htake, List.getElem?_set_self hlt,
    List.drop_append_of_le_length hlen]
  refine ⟨by simp, ?_⟩
  rw [List.length_append, List.length_singleton]
  omega

theorem readOpen_select (hs : s.phase.inTransaction = false) (ht : t.phase.selected = true) (hsent : sentBytes t = [])
    (htr : t.trace = s.trace ++ [.sel]) (hc : t.config = s.config) (hA : t.A = s.A) (hN : t.N = s.N) (hdst : t.dst = s.dst)
    (hi : t.i = s.i) (hempty : sentBytes s = []) (h : ReadOpen pre s) : ReadOpen pre t := by
  obtain ⟨idle, part, vs, got, hidle, hpart, hlen, hdel, htrace⟩ := h
  obtain rfl : got = [] := List.eq_nil_of_length_eq_zero (by rw [hlen, hempty]; rfl)
  refine ⟨idle, part, vs, [], hc ▸ hidle, by rwa [hc, hA], by rw [hsent], by rwa [Delivered, hdst, hi], ?_⟩
  rw [htr, htrace, hA, hN, linkEvents_of_not_inTransaction hs, linkEvents_of_selected ht, hsent]
  simp

theorem readOpen_exchange (h : Row s t) (hi : PhaseInv s) (hs : s.phase.selected = true) (ht : t.phase.selected = true)
    (hbuf : ∀ o vs got, got.length = (sentBytes s).length → t.trace = s.trace ++ [.xfer o (received s o)] → Delivered s vs got →
      Delivered t vs (got ++ [received s o])) (hr : ReadOpen pre s) : ReadOpen pre t := by
  have hb : s.busy = true := by
    rw [busy_iff]
    constructor <;> rintro hp <;> simp [hp, Phase.selected] at hs
  obtain ⟨-, hA, hN, -⟩ := row_keeps_request h hb
  have hin : s.phase.inTransaction = true := by simp [Phase.inTransaction, hs]
  cases row_linkEffect h with
  | stay h => subst h; exact hr
  | silent hn | host _ _ hn | select hn => simp [hn] at hin
  | deselect _ _ hh => simp [selected_eq_false_of_holding hh] at ht
  | hold _ hh => simp [selected_eq_false_of_holding hh] at hs
  | exchange o _ _ hsent he =>
    obtain ⟨idle, part, vs, got, hidle, hpart, hlen, hdel, htrace⟩ := hr
    have hsent := hsent hi
    refine ⟨idle, part, vs, got ++ [received s o], ?_, ?_, ?_, hbuf o vs got hlen he hdel, ?_⟩
    · rwa [row_keeps_config h]
    · rwa [row_keeps_config h, hA]
    · simp [hsent, hlen]
    · rw [he, htrace, hA, hN, linkEvents_of_selected hs, linkEvents_of_selected ht, hsent, List.zipWith_append hlen.symm]
      simp

theorem readOpen_deselect (hs : s.phase.selected = true) (ht : t.phase.holding = true) (hsent : sentBytes t = sentBytes s)
    (htr : t.trace = s.trace ++ [.desel]) (hc : t.config = s.config) (hA : t.A = s.A) (hN : t.N = s.N) (hdst : t.dst = s.dst)
    (hi : t.i = s.i) (h : ReadOpen pre s) : ReadOpen pre t := by
  obtain ⟨idle, part, vs, got, hidle, hpart, hlen, hdel, htrace⟩ := h
  refine ⟨idle, part, vs, got, hc ▸ hidle, by rwa [hc, hA], by rw [hsent, hlen], by rwa [Delivered, hdst, hi], ?_⟩
  rw [htr, htrace, hA, hN, linkEvents_of_selected hs, linkEvents_of_holding ht, hsent]
  simp

/-! ### The end of a READ transaction -/

/-- The hold ends a READ transaction: its data are the buffer's bytes since the transaction before it. -/
theorem readOpen_hold {d : Nat} (hp : s.phase = .rdHold) (hd : s.config.tCsdMin ≤ d) (hi : PhaseInv s) (h : ReadOpen pre s) :
    ∃ idle part vs data tr, IsIdle s.config idle ∧ ReadsBefore s.config s.A vs part ∧
      IsRead s.config (s.A + vs.length) data tr ∧ s.dst.take s.i = vs ++ data ∧ vs.length + data.length = s.i ∧
      (s.config.readFraming = .perByte → data.length = 1) ∧
      s.trace ++ [.hold d] = pre ++ .req .read s.A s.N :: (idle ++ part ++ tr) := by
  obtain ⟨idle, part, vs, got, hidle, hpart, hlen, ⟨htake, hcount⟩, htrace⟩ := h
  simp only [PhaseInv, hp] at hi
  obtain ⟨-, -, h1, -, hburst⟩ := hi
  simp only [sentBytes, hp] at hlen
  have hframe : readFrameDone s = readFrame s.config (addressField (s.A + vs.length)) (got.length - 3) ∧ 3 ≤ got.length ∧
      (s.config.readFraming = .perByte → got.length - 3 = 1) := by
    unfold readFrameDone at hlen ⊢
    cases hf : s.config.readFraming with
    | burst =>
      simp only [ReadsBefore, hf] at hpart
      simp only [hf, readFrame, List.length_cons, List.length_replicate] at hlen
      simp [hpart.1, hlen]
    | perByte =>
      simp only [hf, readFrame, List.length_cons, List.length_replicate] at hlen
      have hv : s.i - 1 = vs.length := by omega
      simp [hlen, hv]
  obtain ⟨hdone, h3, hone⟩ := hframe
  obtain ⟨g0, g1, g2, data, rfl⟩ : ∃ g0 g1 g2 data, got = g0 :: g1 :: g2 :: data := by
    match got, h3 with
    | g0 :: g1 :: g2 :: data, _ => exact ⟨g0, g1, g2, data, rfl⟩
  refine ⟨idle, part, vs, data, tx (readFrameDone s) (g0 :: g1 :: g2 :: data) d, hidle, hpart, ⟨g0, g1, g2, d, hd, ?_⟩, htake,
    hcount, hone, ?_⟩
  · rw [hdone]
    rfl
  · rw [htrace, linkEvents_of_holding (by rw [hp]; rfl)]
    simp [sentBytes, hp, tx]

/-- Another READ, for the next byte. -/
theorem readOpen_rdHoldMore (hp : s.phase = .rdHold) (hi : PhaseInv s) (hlt : s.i < s.N) (h : ReadOpen pre s) :
    ReadOpen pre ((hold s).goto .rdSel) := by
  obtain ⟨idle, part, vs, data, tr, hidle, hpart, hread, htake, hcount, hone, htrace⟩ := readOpen_hold hp (le_holdTime s) hi h
  simp only [PhaseInv, hp] at hi
  obtain ⟨-, -, -, -, hburst⟩ := hi
  cases hf : s.config.readFraming with
  | burst => exact absurd (hburst hf) hlt.ne
  | perByte =>
    obtain ⟨v, rfl⟩ := List.length_eq_one_iff.1 (hone hf)
    simp only [ReadsBefore, hf] at hpart
    refine ⟨idle, part ++ tr, vs ++ [v], [], by simpa using hidle, ?_, rfl, ?_, ?_⟩
    · simpa [ReadsBefore, hf] using isReads_snoc hpart hread
    · exact ⟨by simpa using htake, by simpa using hcount⟩
    · have hnone : linkEvents ((hold s).goto .rdSel) [] = [] := rfl
      simpa [hnone] using htrace

/-- The last READ ends the read. -/
theorem readOver_of_rdHold (hp : s.phase = .rdHold) (hi : PhaseInv s) (heq : s.i = s.N) (h : ReadOpen pre s) :
    ReadOver pre ((hold s).goto .resp) := by
  obtain ⟨idle, part, vs, data, tr, hidle, hpart, hread, htake, hcount, hone, htrace⟩ := readOpen_hold hp (le_holdTime s) hi h
  simp only [PhaseInv, hp] at hi
  obtain ⟨-, -, h1, -, -⟩ := hi
  rw [heq] at htake hcount
  refine ⟨idle, part ++ tr, by simpa using hidle, by simp [htake, hcount], ?_, by simpa using htrace⟩
  simp only [goto_dst, hold_dst, goto_N, hold_N, goto_config, hold_config, goto_A, hold_A, htake]
  cases hf : s.config.readFraming with
  | burst =>
    simp only [ReadsBefore, hf] at hpart
    obtain ⟨rfl, rfl⟩ := hpart
    have hne : data ≠ [] := by
      rintro rfl
      simp at hcount
      omega
    simpa [IsReadPart, hf, hne] using hread
  | perByte =>
    obtain ⟨v, rfl⟩ := List.length_eq_one_iff.1 (hone hf)
    simp only [ReadsBefore, hf] at hpart
    simpa [IsReadPart, hf] using isReads_snoc hpart hread

/-! ### Every row -/

/-- Until the poll is over the trace is the request and the polls. -/
theorem readTraced_iff_chunkTraced (h : s.phase = .check ∨ s.phase.polling = true) :
    ReadTraced pre s ↔ ChunkTraced (pre ++ [.req .read s.A s.N]) s := by
  rcases h with hp | hp
  · simp only [ReadTraced, hp]
  · cases hq : s.phase <;> simp only [hq, Phase.polling, Bool.false_eq_true] at hp
    all_goals simp only [ReadTraced, hq]

theorem readTraced_of_chunkTraced (hb : s.busy = true) (h : Row s t) (hs : s.phase = .check ∨ s.phase.polling = true)
    (ht : t.phase.polling = true) (hc : ∀ pre, ChunkTraced pre s → ChunkTraced pre t) (hw : ReadTraced pre s) :
    ReadTraced pre t := by
  obtain ⟨-, hA, hN, -⟩ := row_keeps_request h hb
  rw [readTraced_iff_chunkTraced (.inr ht), hA, hN]
  exact hc _ ((readTraced_iff_chunkTraced hs).1 hw)

/-- The poll that saw the device idle (44_host_operations R195). -/
theorem idle_of_pollTest (hp : s.phase = .pollTest) (hb : statusBusy s.sr = false) (h : ReadTraced pre s) :
    ∃ idle, IsIdle s.config idle ∧ s.trace = pre ++ .req .read s.A s.N :: idle := by
  simp only [ReadTraced, hp] at h
  obtain ⟨before, hbefore, htrace⟩ := (chunkTraced_of_not_inTransaction (by rw [hp]; rfl)).1 h
  simp only [BeforeTransaction, hp] at hbefore
  obtain ⟨polls, poll, hpolls, hpoll, rfl⟩ := hbefore
  exact ⟨polls ++ poll, isIdle_of_busyPolls hpolls (.seen _ _ hpoll hb), by simp [htrace]⟩

theorem row_keeps_readTraced (h : Row s t) (hb : s.busy = true) (hop : s.op = .read) (hr : outOfRange s.config s.A s.N = false)
    (hi : PhaseInv s) (hresp : s.phase ≠ .resp) (hw : ReadTraced pre s) : ReadTraced pre t := by
  have heff := row_linkEffect h
  have hrow := h
  have hidle := idle_of_pollTest (pre := pre) (s := s)
  have hpoll := readTraced_of_chunkTraced (pre := pre) hb h
  cases h with
  | waitUninit hp | refuseUninit hp | initUninit hp | waitIdle hp | refuseIdle hp | initIdle hp => simp [busy_iff, hp] at hb
  | acceptRead _ _ hp | acceptWrite _ _ hp => simp [busy_iff, hp] at hb
  | resp hp => exact absurd hp hresp
  | checkOut _ ho => simp [ho] at hr
  | checkWrite _ _ hop' | pollWrite _ _ hop' => simp [hop'] at hop
  | splitDone hp | splitMore hp | wrenSel hp | wrenOp hp | wrenDesel _ hp | wrenHold hp => simp [ReadTraced, hp] at hw
  | wrSel hp | wrOp hp | wrAh hp | wrAl hp | wrDataStuck hp | wrDataMore _ hp | wrDataLast _ hp => simp [ReadTraced, hp] at hw
  | wrDesel _ hp | wrHold hp | wrdiSel hp | wrdiOp hp | wrdiDesel _ hp | wrdiHold hp => simp [ReadTraced, hp] at hw
  | rdDataStuck | rdHoldStuck => exact hw
  | checkRead hp =>
    refine hpoll (.inl hp) rfl (fun pre => chunkTraced_silent (by rw [hp]; rfl) rfl rfl (fun tr htr => ?_)) hw
    simp only [BeforeTransaction, hp] at htr
    rw [htr]
    exact .none
  | pollAgain hp hbusy =>
    refine hpoll (.inr (by rw [hp]; rfl)) rfl (fun pre => chunkTraced_silent (by rw [hp]; rfl) rfl rfl (fun tr htr => ?_)) hw
    simp only [BeforeTransaction, hp] at htr
    obtain ⟨polls, poll, h1, h2, rfl⟩ := htr
    exact .more _ _ _ h1 h2 hbusy
  | pollSel hp | pollOp hp =>
    exact hpoll (.inr (by rw [hp]; rfl)) rfl (fun _ => chunkTraced_within heff rfl hi (fun _ => by simp [BeforeTransaction, hp])
      (by simp)) hw
  | pollDummy hp =>
    exact hpoll (.inr (by rw [hp]; rfl)) rfl (fun _ => chunkTraced_within heff rfl hi (fun _ => by simp [BeforeTransaction, hp])
      ⟨fun _ => ⟨_, rfl⟩, nofun⟩) hw
  | pollDesel _ hp =>
    exact hpoll (.inr (by rw [hp]; rfl)) rfl (fun _ => chunkTraced_within heff rfl hi (fun _ => by simp [BeforeTransaction, hp])
      ⟨nofun, fun _ => ⟨hp, rfl⟩⟩) hw
  | pollHold hp =>
    refine hpoll (.inr (by rw [hp]; rfl)) rfl (fun _ => chunkTraced_held (by rw [hp]; rfl) rfl rfl (le_holdTime s)
      (fun before done h1 _ h3 => ?_)) hw
    simp only [BeforeTransaction, hp] at h1
    exact ⟨before, done, by simpa using h1, by simpa using h3 hp, rfl⟩
  | pollReadNone hp hb' _ hN =>
    obtain ⟨idle, h1, h2⟩ := hidle hp hb' hw
    refine ⟨idle, [], h1, by simp [hN], ?_, by simpa using h2⟩
    cases hf : s.config.readFraming <;> simp [IsReadPart, hf, hN, IsReads.none]
  | pollRead hp hb' =>
    obtain ⟨idle, h1, h2⟩ := hidle hp hb' hw
    exact ⟨idle, [], [], [], h1, readsBefore_nil _ _, rfl, ⟨rfl, rfl⟩, h2.trans (by simp; rfl)⟩
  | rdSel hp =>
    simp only [ReadTraced, hp] at hw
    exact readOpen_select (by rw [hp]; rfl) rfl rfl rfl rfl rfl rfl rfl rfl (by simp only [sentBytes, hp]) hw
  | rdOp hp | rdAh hp | rdAl hp =>
    simp only [ReadTraced, hp] at hw
    exact readOpen_exchange hrow hi (by rw [hp]; rfl) rfl
      (fun o vs got hlen _ hdel => delivered_early (by simp [hlen, sentBytes, hp]) (by simp) (by simp) hdel) hw
  | rdDataMore hp _ hlt | rdDataLast hp _ hlt =>
    simp only [ReadTraced, hp] at hw
    refine readOpen_exchange hrow hi (by rw [hp]; rfl) rfl (fun o vs got hlen he hdel => ?_) hw
    obtain ⟨rfl, -⟩ : s.config.dummyByte = o ∧ received s s.config.dummyByte = received s o := by simpa using he
    exact delivered_data (by simp [hlen, sentBytes, hp, readFrame]) hlt rfl rfl hdel
  | rdDesel _ hp =>
    simp only [ReadTraced, hp] at hw
    exact readOpen_deselect (by rw [hp]; rfl) rfl (by simp only [sentBytes, hp]; rfl) rfl rfl rfl rfl rfl rfl hw
  | rdHoldMore hp hlt =>
    simp only [ReadTraced, hp] at hw
    exact readOpen_rdHoldMore hp hi hlt hw
  | rdHoldDone hp heq =>
    simp only [ReadTraced, hp] at hw
    exact readOver_of_rdHold hp hi heq hw

/-! ### In service -/

/-- No row stores beyond the request's bytes. -/
theorem row_keeps_dst_drop (h : Row s t) (hb : s.busy = true) (hi : PhaseInv s) : t.dst.drop s.N = s.dst.drop s.N := by
  cases h with
  | acceptRead _ _ hp | acceptWrite _ _ hp => simp [busy_iff, hp] at hb
  | rdDataMore hp | rdDataLast hp =>
    simp only [PhaseInv, hp] at hi
    obtain ⟨-, -, hlt⟩ := hi
    exact List.drop_set_of_lt hlt
  | _ => simp

variable {r : Request} {rest : List Request}

/-- A read in service, with its trace so far and what it has left of the buffer. -/
structure ReadInService (c : Config) (r : Request) (rest : List Request) (pre : List Event) (s : State) : Prop where
  service : InService c .read r rest s
  untouched : s.dst.drop r.count = r.buffer.drop r.count
  rejected : outOfRange c r.address r.count = true → Unanswered pre s ∧ s.dst = r.buffer
  traced : outOfRange c r.address r.count = false → ReadTraced pre s

theorem readInService_accept (hp : s.phase = .idle) (hl : LinesInv s) (hr : s.requests = r :: rest) :
    ReadInService s.config r rest s.trace { acceptRequest .read r.address r.count s with dst := r.buffer } where
  service := ⟨⟨rfl, rfl, rfl, rfl, rfl, by simp [hr]⟩, trivial, hl.1, by rw [acceptRequest, hl.2, hp]; rfl⟩
  untouched := rfl
  rejected := fun _ => ⟨⟨.inl rfl, rfl⟩, rfl⟩
  traced := fun _ => (chunkTraced_of_not_inTransaction rfl).2 ⟨[], rfl, by simp⟩

theorem row_keeps_readInService (h : Row s t) (ht : t.busy = true) (hs : ReadInService c r rest pre s) :
    ReadInService c r rest pre t := by
  obtain ⟨hservice, huntouched, hrejected, htraced⟩ := hs
  obtain ⟨hserving, hregisters, -⟩ := id hservice
  refine ⟨row_keeps_inService h ht hservice, ?_, fun ho => ?_, fun ho => ?_⟩
  · have hdrop := row_keeps_dst_drop h hserving.busy hregisters
    rw [hserving.count] at hdrop
    exact hdrop.trans huntouched
  · obtain ⟨hun, hdst⟩ := hrejected ho
    obtain ⟨hun', hdst'⟩ := row_keeps_unanswered h hserving.busy ht (hserving.outOfRange.trans ho) hun
    exact ⟨hun', hdst'.trans hdst⟩
  · exact row_keeps_readTraced h hserving.busy hserving.op (hserving.outOfRange.trans ho) hregisters
      (phase_ne_resp_of_row h hserving.busy ht) (htraced ho)

theorem ReadInService.trace (hs : ReadInService c r rest pre s) (hp : s.phase = .resp) :
    ∃ tr, (respond s).trace = pre ++ tr ∧ IsReadTrace c r.address r.count (s.dst.take r.count) tr := by
  obtain ⟨⟨hserving, hregisters, -⟩, -, hrejected, htraced⟩ := hs
  cases ho : outOfRange c r.address r.count with
  | true =>
    have htr := trace_of_unanswered hp hregisters (hserving.outOfRange.trans ho) (hrejected ho).1
    rw [hserving.op, hserving.address, hserving.count] at htr
    exact ⟨_, htr, by rw [IsReadTrace, if_pos ho]⟩
  | false =>
    have hrs := rstat_ok_of_resp hp (hserving.outOfRange.trans ho) hregisters
    have htraced := htraced ho
    simp only [ReadTraced, hp, ReadOver, hserving.config, hserving.address, hserving.count] at htraced
    obtain ⟨idle, part, hidle, hlen, hpart, htrace⟩ := htraced
    refine ⟨.req .read r.address r.count :: (idle ++ part ++ [.resp .ok]), by simp [htrace, hrs], ?_⟩
    rw [IsReadTrace, ho]
    exact ⟨idle, part, hidle, hlen, hpart, rfl⟩

/-- Settles O53: the request is accepted, and every row and every `Complete` keep the trace among those of the set, with the bytes
received in the buffer. -/
theorem readTraceSound : Obligations.ReadTraceSound := by
  intro s t r rest n hp hl hreq hop ha hn hq hend
  have haccept := controllerStep_acceptRead (s := s.withSchedule []) hp hreq hop ha hn
  have hstart := readInService_accept (s := s.withSchedule []) hp hl hreq
  obtain ⟨u, hu, hpu, ht⟩ := endsIn_respond hq hp hend haccept hstart (fun u v _ hb hI hrow => row_keeps_readInService hrow hb hI)
    (fun u hI => ⟨complete_keeps_inService hI.service, hI.untouched, hI.rejected, hI.traced⟩)
  have hfinal := hu.service.respond hpu
  have htrace := hu.trace hpu
  have hdst : t.dst = u.dst := (congrArg State.dst ht :)
  rw [← ht] at hfinal htrace
  obtain ⟨h1, h2, h3, h4⟩ := hfinal
  rw [hdst]
  exact ⟨h1, h2, h3, h4, fun ho => (hu.rejected ho).2, hu.untouched, htrace⟩

end Sys2Proof.Machine
end

section
/-! SUPPORT. Runs against a device that may return anything (44_host_operations R195): given the bytes and delays it needs, the
controller puts any trace of a poll or of a transaction on the bus. -/

namespace Sys2Proof.Machine

variable {s t u : State} {tr tr' : List Event}

/-! ### Scripts -/

/-- `s` with another trace behind it and another script before it. -/
def State.scripted (s : State) (tr : List Event) (replies : List Byte) (delays : List Nat) : State :=
  { s with trace := tr, replies := replies, delays := delays }

/-- With some bytes and delays before it on its script the controller goes from `s` to `t` and puts `tr` in the trace, whatever was
in the trace before and whatever is behind them on the script. -/
def Plays (s : State) (tr : List Event) (t : State) : Prop :=
  ∃ replies delays k, ∀ pre rs ds, run k (s.scripted pre (replies ++ rs) (delays ++ ds)) = .next (t.scripted (pre ++ tr) rs ds)

theorem plays_refl (s : State) : Plays s [] s := ⟨[], [], 0, fun pre rs ds => by simp [run]⟩

theorem Plays.trans (h : Plays s tr t) (h' : Plays t tr' u) : Plays s (tr ++ tr') u := by
  obtain ⟨replies, delays, k, hrun⟩ := h
  obtain ⟨replies', delays', k', hrun'⟩ := h'
  refine ⟨replies ++ replies', delays ++ delays', k + k', fun pre rs ds => ?_⟩
  rw [List.append_assoc, List.append_assoc, run_add (hrun _ _ _), hrun', List.append_assoc]

/-- A row that adds nothing to the trace. -/
theorem plays_row (hs : s.schedule = [])
    (h : ∀ pre rs ds, controllerStep (s.scripted pre rs ds) = .next (t.scripted pre rs ds)) : Plays s [] t :=
  ⟨[], [], 1, fun pre rs ds => by
    rw [List.append_nil]
    exact run_row (k := 0) (s₀ := s.scripted pre rs ds) rfl hs (h pre rs ds)⟩

/-! ### One transaction -/

theorem select_arbitrary {d : Device} (hk : d.kind = .arbitrary) : d.select = d := by simp [Device.select, hk]

theorem exchange_scripted (hk : s.device.kind = .arbitrary) (pre : List Event) (o g : Byte) (rs : List Byte) (ds : List Nat) :
    exchange (s.scripted pre (g :: rs) ds) o = s.scripted (pre ++ [.xfer o g]) rs ds := by
  rw [exchange_of_any (s := s.scripted pre (g :: rs) ds) (reply_arbitrary _ hk o)]
  simp [State.scripted, State.byteDrawn, State.anyByte, receive_arbitrary hk]

/-- The bytes that come back are those on the script. -/
theorem foldl_exchange_scripted (hk : s.device.kind = .arbitrary) {bytes got : List Byte} (hlen : got.length = bytes.length)
    (pre : List Event) (rs : List Byte) (ds : List Nat) :
    bytes.foldl exchange (s.scripted pre (got ++ rs) ds) = s.scripted (pre ++ List.zipWith .xfer bytes got) rs ds ∧
      receivedAll (s.scripted pre (got ++ rs) ds) bytes = got := by
  induction bytes generalizing got pre with
  | nil =>
    obtain rfl : got = [] := List.eq_nil_of_length_eq_zero hlen
    simp [receivedAll]
  | cons o bytes ih =>
    obtain ⟨g, got, rfl⟩ := List.exists_cons_of_length_eq_add_one hlen
    obtain ⟨hfold, hall⟩ := ih (Nat.succ.inj hlen) (pre ++ [.xfer o g])
    have hreceived : received (s.scripted pre (g :: got ++ rs) ds) o = g := received_of_any (reply_arbitrary _ hk o)
    have hex := exchange_scripted hk pre o g (got ++ rs) ds
    rw [List.foldl_cons, receivedAll, hreceived, List.cons_append, hex, hfold, hall]
    simp

/-- The lines inactive. -/
def State.linesOff (s : State) : State := { s with csSel := false, linkEn := false }

theorem transaction_scripted (hk : s.device.kind = .arbitrary) {bytes got : List Byte} (hlen : got.length = bytes.length)
    (pre : List Event) (rs : List Byte) (x : Nat) (ds : List Nat) :
    hold ((bytes.foldl exchange (selectDevice (s.scripted pre (got ++ rs) (x :: ds)))).deselected s.device) =
        s.linesOff.scripted (pre ++ tx bytes got (s.config.tCsdMin + x)) rs ds ∧
      receivedAll (selectDevice (s.scripted pre (got ++ rs) (x :: ds))) bytes = got := by
  have hsel : selectDevice (s.scripted pre (got ++ rs) (x :: ds)) =
      State.scripted { s with csSel := true, linkEn := true } (pre ++ [.sel]) (got ++ rs) (x :: ds) := by
    simp [selectDevice, State.scripted, select_arbitrary hk]
  obtain ⟨hfold, hall⟩ :=
    foldl_exchange_scripted (s := { s with csSel := true, linkEn := true }) hk hlen (pre ++ [.sel]) rs (x :: ds)
  rw [hsel, hfold, hall]
  refine ⟨?_, rfl⟩
  simp [hold, State.deselected, State.scripted, State.linesOff, State.delayDrawn, holdTime, State.anyDelay, tx]

theorem plays_wren (hs : s.schedule = []) (hp : s.phase = .wrenSel) (hk : s.device.kind = .arbitrary)
    (h : IsTx s.config [opcodeWren] tr) : Plays s tr { s.linesOff with phase := .wrSel } := by
  obtain ⟨got, d, hlen, hd, rfl⟩ := h
  obtain ⟨x, rfl⟩ := Nat.exists_eq_add_of_le hd
  obtain ⟨g, rfl⟩ := List.length_eq_one_iff.1 hlen
  refine ⟨[g], [x], 4, fun pre rs ds => ?_⟩
  exact run_wren (s := s.scripted pre (g :: rs) (x :: ds)) hs hp (deselect_received_arbitrary _ hk [opcodeWren])

theorem plays_wrdi (hs : s.schedule = []) (hp : s.phase = .wrdiSel) (hk : s.device.kind = .arbitrary)
    (h : IsTx s.config [opcodeWrdi] tr) : Plays s tr { s.linesOff with cur := s.cur + s.n, phase := .split } := by
  obtain ⟨got, d, hlen, hd, rfl⟩ := h
  obtain ⟨x, rfl⟩ := Nat.exists_eq_add_of_le hd
  obtain ⟨g, rfl⟩ := List.length_eq_one_iff.1 hlen
  refine ⟨[g], [x], 4, fun pre rs ds => ?_⟩
  exact run_wrdi (s := s.scripted pre (g :: rs) (x :: ds)) hs hp (deselect_received_arbitrary _ hk [opcodeWrdi])

theorem frameOver_arbitrary {d : Device} (hk : d.kind = .arbitrary) : d.frameOver = d := by simp [Device.frameOver, hk]

theorem plays_rdsr {y : Byte} (hs : s.schedule = []) (hp : s.phase = .pollSel) (hk : s.device.kind = .arbitrary)
    (h : IsRdsr s.config y tr) : Plays s tr { s.linesOff with sr := y, phase := .pollTest } := by
  obtain ⟨g, d, hd, rfl⟩ := h
  obtain ⟨x, rfl⟩ := Nat.exists_eq_add_of_le hd
  refine ⟨[g, y], [x], 5, fun pre rs ds => ?_⟩
  obtain ⟨v, -, hv, hrun⟩ := rdsrTransaction (s.scripted pre (g :: y :: rs) (x :: ds)) hp hs
  obtain rfl : v = y := hv hk
  have hover : (s.scripted pre (g :: v :: rs) (x :: ds)).device.frameOver = s.device := frameOver_arbitrary hk
  refine hrun.trans ?_
  conv_rhs => rw [State.linesOff, ← hover]
  rfl

theorem plays_write (hs : s.schedule = []) (hp : s.phase = .wrSel) (hk : s.device.kind = .arbitrary) (hn : 1 ≤ s.n)
    (hlen : (chunkData s).length = s.n) (h : IsTx s.config (writeFrame (addressField s.cur) (chunkData s)) tr) :
    Plays s tr { s.linesOff with i := s.n, phase := .wrdiSel } := by
  obtain ⟨got, d, hgot, hd, rfl⟩ := h
  obtain ⟨x, rfl⟩ := Nat.exists_eq_add_of_le hd
  refine ⟨got, [x], s.n + 6, fun pre rs ds => ?_⟩
  have hrun := run_write (s := s.scripted pre (got ++ rs) (x :: ds)) hs hp hn hlen (deselect_received_arbitrary _ hk _)
  have htx := (transaction_scripted hk hgot pre rs x ds).1
  exact hrun.trans (congrArg (fun v : State => (Host.Outcome.next (v.working .wrdiSel s.n s.dst) : Result)) htx)

/-- The bytes received at the data positions go into the buffer. -/
theorem plays_read {v : List Byte} (hs : s.schedule = []) (hp : s.phase = .rdSel) (hk : s.device.kind = .arbitrary)
    (hv : v ≠ []) (hpos : pendingPositions s = v.length) (hN : s.i + v.length ≤ s.N) (hfit : s.i + v.length ≤ s.dst.length)
    (h : IsRead s.config (s.A + s.i) v tr) :
    Plays s tr { s.linesOff with
      i := s.i + v.length, dst := s.dst.take s.i ++ v ++ s.dst.drop (s.i + v.length),
      phase := if s.i + v.length < s.N then .rdSel else .resp } := by
  obtain ⟨g0, g1, g2, d, hd, rfl⟩ := h
  obtain ⟨x, rfl⟩ := Nat.exists_eq_add_of_le hd
  obtain ⟨b, w, rfl⟩ := List.exists_cons_of_ne_nil hv
  refine ⟨g0 :: g1 :: g2 :: b :: w, [x], w.length + 1 + 6, fun pre rs ds => ?_⟩
  have hrun := run_read (s := s.scripted pre (g0 :: g1 :: g2 :: b :: w ++ rs) (x :: ds)) hs hp hpos hN hfit
    (deselect_received_arbitrary _ hk _)
  obtain ⟨htx, hall⟩ := transaction_scripted (got := g0 :: g1 :: g2 :: b :: w)
    (bytes := readFrame s.config (addressField (s.A + s.i)) (w.length + 1)) hk (by simp [readFrame]) pre rs x ds
  have hdata : receivedAll (readAddressSent (s.scripted pre (g0 :: g1 :: g2 :: b :: w ++ rs) (x :: ds)))
      (List.replicate (w.length + 1) s.config.dummyByte) = b :: w :=
    (List.cons.inj (List.cons.inj (List.cons.inj hall).2).2).2
  exact hrun.trans (congrArg₂ (fun (u : State) (got : List Byte) => (Host.Outcome.next (u.working
    (if s.i + (w.length + 1) < s.N then .rdSel else .resp) (s.i + (w.length + 1))
    (s.dst.take s.i ++ got ++ s.dst.drop (s.i + (w.length + 1)))) : Result)) htx hdata)

end Sys2Proof.Machine
end

section
/-! SUPPORT. Every trace of an operation is run (44_host_operations R193 to R195): the poll, each page of a write, the READ
transactions of a read, and from the acceptance to the response. -/

namespace Sys2Proof.Machine

variable {s t u : State} {tr tr' : List Event}

/-! ### The poll -/

theorem plays_idle (hs : s.schedule = []) (hp : s.phase = .pollSel) (hk : s.device.kind = .arbitrary) (h : IsIdle s.config tr) :
    ∃ sr, statusBusy sr = false ∧ Plays s tr { s.linesOff with sr := sr, phase := .pollTest } := by
  generalize hc : s.config = c at h
  induction h generalizing s with
  | seen y tr hy hidle => exact ⟨y, hidle, plays_rdsr hs hp hk (hc ▸ hy)⟩
  | again y tr rest hy hbusy _ ih =>
    have hpoll := plays_rdsr hs hp hk (hc ▸ hy)
    have htest : Plays { s.linesOff with sr := y, phase := .pollTest } [] { s.linesOff with sr := y, phase := .pollSel } :=
      plays_row hs fun pre rs ds => (row_pollTest rfl).trans (pollTestRow_of_busy hbusy)
    obtain ⟨sr, hidle, hrest⟩ := ih (s := { s.linesOff with sr := y, phase := .pollSel }) hs rfl hk hc
    refine ⟨sr, hidle, ?_⟩
    have hall := (hpoll.trans htest).trans hrest
    rwa [List.append_nil] at hall

/-! ### To the response -/

/-- The controller comes to S_RESP, by `tr`, with the port, the status and the buffer `dst`. -/
def Responds (s : State) (tr : List Event) (rstat : Status) (dst : List Byte) : Prop :=
  ∃ t, Plays s tr t ∧ t.phase = .resp ∧ t.requests = s.requests ∧ t.rstat = rstat ∧ t.dst = dst

theorem Plays.responds {rstat : Status} {dst : List Byte} (h : Plays s tr t) (hr : t.requests = s.requests)
    (ht : Responds t tr' rstat dst) : Responds s (tr ++ tr') rstat dst := by
  obtain ⟨u, hu, hp, hreq, hrest⟩ := ht
  exact ⟨u, h.trans hu, hp, hreq.trans hr, hrest⟩

theorem responds_outOfRange (hs : s.schedule = []) (hp : s.phase = .check) (hr : outOfRange s.config s.A s.N = true) :
    Responds s [] .outOfRange s.dst :=
  ⟨{ s with rstat := .outOfRange, phase := .resp },
    plays_row hs fun pre rs ds => (row_check (s := s.scripted pre rs ds) hp).trans (checkRow_out hr), rfl, rfl, rfl, rfl⟩

/-- An operation ends by the trace that takes it to S_RESP. -/
theorem endsIn_of_responds {e : Event} {rstat : Status} {dst : List Byte} (hs : s.schedule = [])
    (haccept : ∀ replies delays, controllerStep { s with replies := replies, delays := delays } =
      .next (u.scripted (s.trace ++ [e]) replies delays))
    (h : Responds u tr rstat dst) :
    ∃ replies delays n t, EndsIn n { s with replies := replies, delays := delays } t ∧
      t.trace = s.trace ++ e :: (tr ++ [.resp rstat]) ∧ t.dst = dst := by
  obtain ⟨t, ⟨replies, delays, k, hrun⟩, hp, hreq, rfl, rfl⟩ := h
  have hrun := hrun (s.trace ++ [e]) [] []
  rw [List.append_nil, List.append_nil] at hrun
  exact ⟨replies, delays, k + 2, _, endsIn_of_resp hs (haccept replies delays) hrun hp hreq, by simp [State.scripted, respond], rfl⟩

/-! ### The pages of a write -/

theorem plays_page {n : Nat} (hs : s.schedule = []) (hp : s.phase = .split) (hop : s.op = .write)
    (hk : s.device.kind = .arbitrary) (hA : s.A ≤ s.cur) (hcur : s.cur < s.A + s.N) (hsrc : s.N ≤ s.src.length)
    (hn : chunkLength s.config s.cur (s.A + s.N) = n) (h : IsPage s.config s.cur ((s.src.drop (s.cur - s.A)).take n) tr) :
    ∃ sr, Plays s tr { s.linesOff with sr := sr, n := n, i := n, cur := s.cur + n, phase := .split } := by
  obtain ⟨idle, wren, write, wrdi, hidle, hwren, hwrite, hwrdi, rfl⟩ := h
  obtain ⟨h1, -, hend⟩ := chunkLength_bounds s.config hcur
  have hlen : ((s.src.drop (s.cur - s.A)).take n).length = n := by
    rw [List.length_take, List.length_drop]
    omega
  have hsplit : Plays s [] { s with n := n, phase := .pollSel } :=
    plays_row hs fun pre rs ds => by
      subst hn
      exact (row_split (s := s.scripted pre rs ds) hp).trans (splitRow_more hcur.ne)
  obtain ⟨sr, hsr, hpoll⟩ := plays_idle (s := { s with n := n, phase := .pollSel }) hs rfl hk hidle
  have htest : Plays { s.linesOff with n := n, sr := sr, phase := .pollTest } []
      { s.linesOff with n := n, sr := sr, phase := .wrenSel } :=
    plays_row hs fun pre rs ds => (row_pollTest rfl).trans (pollTestRow_write hsr hop)
  have hwrenTx := plays_wren (s := { s.linesOff with n := n, sr := sr, phase := .wrenSel }) hs rfl hk hwren
  have hwriteTx := plays_write (s := { s.linesOff with n := n, sr := sr, phase := .wrSel }) hs rfl hk (hn ▸ h1) hlen hwrite
  have hwrdiTx := plays_wrdi (s := { s.linesOff with n := n, sr := sr, i := n, phase := .wrdiSel }) hs rfl hk hwrdi
  refine ⟨sr, ?_⟩
  have hall := ((((hsplit.trans hpoll).trans htest).trans hwrenTx).trans hwriteTx).trans hwrdiTx
  rwa [List.nil_append, List.append_nil] at hall

theorem plays_pages (hs : s.schedule = []) (hp : s.phase = .split) (hop : s.op = .write) (hk : s.device.kind = .arbitrary)
    (hA : s.A ≤ s.cur) (hcur : s.cur ≤ s.A + s.N) (hsrc : s.N ≤ s.src.length)
    (h : IsPages s.config s.A s.src (chunksFrom s.config (s.A + s.N - s.cur) s.cur (s.A + s.N)) tr) :
    Responds s tr s.rstat s.dst := by
  induction hleft : s.A + s.N - s.cur using Nat.strongRecOn generalizing s tr with
  | ind left ih =>
    rcases hcur.eq_or_lt with hdone | hmore
    · rw [hdone, chunksFrom_done] at h
      cases h
      have hresp : Plays s [] { s with phase := .resp } :=
        plays_row hs fun pre rs ds => (row_split (s := s.scripted pre rs ds) hp).trans (splitRow_done hdone)
      exact ⟨_, hresp, rfl, rfl, rfl, rfl⟩
    · obtain ⟨h1, -, hend⟩ := chunkLength_bounds s.config hmore
      rw [chunksFrom_next hmore] at h
      cases h with
      | page _ _ _ page rest hpage hrest =>
        obtain ⟨sr, hplays⟩ := plays_page hs hp hop hk hA hmore hsrc rfl hpage
        refine hplays.responds rfl (ih _ ?_ hs rfl hop hk (Nat.le_add_right_of_le hA) hend hsrc hrest rfl)
        show s.A + s.N - (s.cur + chunkLength s.config s.cur (s.A + s.N)) < left
        omega

/-- From the acceptance of a write. -/
theorem responds_write (hs : s.schedule = []) (hp : s.phase = .check) (hop : s.op = .write) (hk : s.device.kind = .arbitrary)
    (hsrc : s.N ≤ s.src.length) (hr : outOfRange s.config s.A s.N = false)
    (h : IsPages s.config s.A s.src (chunksOf s.config s.A s.N) tr) : Responds s tr .ok s.dst := by
  have hcheck : Plays s [] { s with rstat := .ok, cur := s.A, phase := .split } :=
    plays_row hs fun pre rs ds => (row_check (s := s.scripted pre rs ds) hp).trans (checkRow_write hr hop)
  rw [chunksOf_eq_chunksFrom] at h
  exact hcheck.responds rfl (plays_pages (s := { s with rstat := .ok, cur := s.A, phase := .split }) hs rfl hop hk le_rfl
    (Nat.le_add_right _ _) hsrc h)

/-- Settles O54: acceptance, the pages of the trace one after the other, the response. -/
theorem writeTraceComplete : Obligations.WriteTraceComplete := by
  intro s A N source rest tr hp hs hk hA hN hsrc hreq htr
  have haccept : ∀ replies delays, controllerStep { s with replies := replies, delays := delays } =
      .next (State.scripted { acceptRequest .write A N s with src := source } (s.trace ++ [.req .write A N]) replies delays) :=
    fun replies delays => controllerStep_acceptWrite (s := { s with replies := replies, delays := delays }) hp hreq rfl hA hN
  unfold IsWriteTrace at htr
  cases hr : outOfRange s.config A N with
  | true =>
    rw [hr, if_pos rfl] at htr
    obtain ⟨replies, delays, n, t, hend, htrace, -⟩ := endsIn_of_responds hs haccept (responds_outOfRange hs rfl hr)
    exact ⟨replies, delays, n, t, hend, by rw [htrace, htr]; rfl⟩
  | false =>
    rw [hr, if_neg Bool.false_ne_true] at htr
    obtain ⟨pages, hpages, rfl⟩ := htr
    obtain ⟨replies, delays, n, t, hend, htrace, -⟩ :=
      endsIn_of_responds hs haccept (responds_write hs rfl rfl hk hsrc hr hpages)
    exact ⟨replies, delays, n, t, hend, htrace⟩

/-! ### A read -/

/-- Under PerByte a READ for each byte that is left. -/
theorem responds_reads {b : Byte} {w : List Byte} (hs : s.schedule = []) (hp : s.phase = .rdSel)
    (hk : s.device.kind = .arbitrary) (hf : s.config.readFraming = .perByte) (hN : s.i + (w.length + 1) = s.N)
    (hfit : s.N ≤ s.dst.length) (h : IsReads s.config (s.A + s.i) (b :: w) tr) :
    Responds s tr s.rstat (s.dst.take s.i ++ b :: w ++ s.dst.drop s.N) := by
  induction w generalizing s b tr with
  | nil =>
    cases h with
    | byte _ _ _ read none hread hnone =>
      cases hnone
      have hplays := plays_read (v := [b]) hs hp hk (by simp) (by simp [pendingPositions, hf]) hN.le (hN.le.trans hfit) hread
      rw [List.append_nil]
      exact ⟨_, hplays, if_neg hN.not_lt, rfl, rfl, hN ▸ rfl⟩
  | cons c w ih =>
    cases h with
    | byte _ _ _ read rest hread hrest =>
      rw [List.length_cons] at hN
      have hfirst := plays_read (v := [b]) hs hp hk (by simp) (by simp [pendingPositions, hf]) (by simp; omega)
        (by simp; omega) hread
      rw [if_pos (by simp; omega)] at hfirst
      have hset : s.dst.take s.i ++ [b] ++ s.dst.drop (s.i + 1) = s.dst.set s.i b := by
        rw [List.set_eq_take_append_cons_drop, if_pos (by omega), List.append_assoc]
        rfl
      have hplays : Plays s read { s.linesOff with i := s.i + 1, dst := s.dst.set s.i b, phase := .rdSel } := hset ▸ hfirst
      have hstored := stored_cons s.dst b (c :: w) (show s.i < s.dst.length by omega) (show s.i < s.N by omega)
      rw [← hstored]
      refine hplays.responds rfl (ih hs rfl hk hf ?_ (hfit.trans_eq List.length_set.symm) hrest)
      show s.i + 1 + (w.length + 1) = s.N
      omega

/-- The READ transactions of a read that delivers `v`. -/
theorem responds_readPart {v : List Byte} (hs : s.schedule = []) (hp : s.phase = .rdSel) (hi : s.i = 0)
    (hk : s.device.kind = .arbitrary) (hN : v.length = s.N) (hv : v ≠ []) (hfit : s.N ≤ s.dst.length)
    (h : IsReadPart s.config s.A v tr) : Responds s tr s.rstat (v ++ s.dst.drop s.N) := by
  unfold IsReadPart at h
  cases hf : s.config.readFraming with
  | burst =>
    simp only [hf, if_neg hv] at h
    have hplays := plays_read hs hp hk hv (by simp [pendingPositions, hf, hi, hN]) (by simp [hi, hN]) (by simp [hi, hN, hfit])
      (by rwa [hi])
    exact ⟨_, hplays, by simp [hi, hN], rfl, rfl, by simp [hi, hN]⟩
  | perByte =>
    simp only [hf] at h
    obtain ⟨b, w, rfl⟩ := List.exists_cons_of_ne_nil hv
    have hplays := responds_reads hs hp hk hf (by rw [hi, Nat.zero_add]; exact hN) hfit (by rwa [hi])
    simpa [hi] using hplays

/-- No byte, no transaction. -/
theorem eq_nil_of_isReadPart_nil {c : Config} {a : Nat} (h : IsReadPart c a [] tr) : tr = [] := by
  unfold IsReadPart at h
  cases hf : c.readFraming with
  | burst => simpa [hf] using h
  | perByte =>
    simp only [hf] at h
    cases h
    rfl

/-- From the acceptance of a read. -/
theorem responds_read {idle part : List Event} {v : List Byte} (hs : s.schedule = []) (hp : s.phase = .check)
    (hop : s.op = .read) (hk : s.device.kind = .arbitrary) (hfit : s.N ≤ s.dst.length)
    (hr : outOfRange s.config s.A s.N = false) (hidle : IsIdle s.config idle) (hv : v.length = s.N)
    (h : IsReadPart s.config s.A v part) : Responds s (idle ++ part) .ok (v ++ s.dst.drop s.N) := by
  have hcheck : Plays s [] { s with rstat := .ok, phase := .pollSel } :=
    plays_row hs fun pre rs ds => (row_check (s := s.scripted pre rs ds) hp).trans (checkRow_read hr hop)
  obtain ⟨sr, hsr, hpoll⟩ := plays_idle (s := { s with rstat := .ok, phase := .pollSel }) hs rfl hk hidle
  refine (hcheck.trans hpoll).responds rfl ?_
  by_cases hN : s.N = 0
  · obtain rfl : v = [] := List.eq_nil_of_length_eq_zero (hv.trans hN)
    refine ⟨{ s.linesOff with rstat := .ok, sr := sr, phase := .resp }, ?_, rfl, rfl, rfl, by rw [hN]; rfl⟩
    rw [eq_nil_of_isReadPart_nil h]
    exact plays_row hs fun pre rs ds => (row_pollTest rfl).trans (pollTestRow_readNone hsr hop hN)
  · have htest : Plays { s.linesOff with rstat := .ok, sr := sr, phase := .pollTest } []
        { s.linesOff with rstat := .ok, sr := sr, i := 0, phase := .rdSel } :=
      plays_row hs fun pre rs ds => (row_pollTest rfl).trans (pollTestRow_read hsr hop hN)
    have hne : v ≠ [] := fun hnil => hN (by rw [← hv, hnil]; rfl)
    exact htest.responds rfl (responds_readPart (s := { s.linesOff with rstat := .ok, sr := sr, i := 0, phase := .rdSel })
      hs rfl rfl hk hv hne hfit h)

/-- Settles O55: acceptance, the polls, the READ transactions with their bytes, the response. -/
theorem readTraceComplete : Obligations.ReadTraceComplete := by
  intro s A N destination v rest tr hp hs hk hA hN hfit hreq htr
  have haccept : ∀ replies delays, controllerStep { s with replies := replies, delays := delays } =
      .next (State.scripted { acceptRequest .read A N s with dst := destination } (s.trace ++ [.req .read A N]) replies delays) :=
    fun replies delays => controllerStep_acceptRead (s := { s with replies := replies, delays := delays }) hp hreq rfl hA hN
  unfold IsReadTrace at htr
  cases hr : outOfRange s.config A N with
  | true =>
    rw [hr, if_pos rfl] at htr
    obtain ⟨replies, delays, n, t, hend, htrace, -⟩ := endsIn_of_responds hs haccept (responds_outOfRange hs rfl hr)
    exact ⟨replies, delays, n, t, hend, by rw [htrace, htr]; rfl, nofun⟩
  | false =>
    rw [hr, if_neg Bool.false_ne_true] at htr
    obtain ⟨idle, part, hidle, hv, hpart, rfl⟩ := htr
    obtain ⟨replies, delays, n, t, hend, htrace, hdst⟩ :=
      endsIn_of_responds hs haccept (responds_read hs rfl rfl hk hfit hr hidle hv hpart)
    exact ⟨replies, delays, n, t, hend, htrace, fun _ => hdst⟩

end Sys2Proof.Machine
end

section
/-! SUPPORT. A device that stays busy (60_exceptions R226): a poll of it ends where it began, and no row of the poll does more than put
an event on the bus. -/

namespace Sys2Proof.Machine

variable {s t u : State} {tr : List Event}

/-! ### Poll after poll -/

/-- Six steps against a busy reference device: one RDSR transaction that sees bit 0 set, and the test that goes back. -/
theorem run_busyPoll (hp : s.phase = .pollSel) (hs : s.schedule = []) (hk : s.device.kind = .reference)
    (hw : s.device.wip = true) :
    ∃ v poll replies delays draws, IsRdsr s.config v poll ∧ statusBusy v = true ∧ run 6 s =
      .next { s.served { s.device with frame := [] } (s.trace ++ poll) replies delays draws with sr := v, phase := .pollSel } := by
  obtain ⟨v, hv, -, hrun⟩ := rdsrTransaction s hp hs
  obtain ⟨-, hbusy⟩ := hv hk
  rw [hw] at hbusy
  rw [delayDrawn_eq_tail, byteDrawn_eq_tail, byteDrawn_eq_tail] at hrun
  rw [← frameOver_reference hk]
  exact ⟨v, tx [opcodeRdsr, s.config.dummyByte] [s.anyByte, v] _, _, _, _, ⟨_, _, Nat.le_add_right .., rfl⟩, hbusy,
    run_row hrun hs ((row_pollTest rfl).trans (pollTestRow_of_busy hbusy))⟩

/-- Every six steps are one more such poll. -/
theorem run_busyPolls (hp : s.phase = .pollSel) (hs : s.schedule = []) (hk : s.device.kind = .reference)
    (hw : s.device.wip = true) (k : Nat) :
    ∃ (t : State) (polls : List (List Event)), run (6 * k) s = .next t ∧ t.phase = .pollSel ∧
      t.trace = s.trace ++ polls.flatten ∧ polls.length = k ∧
      (∀ p ∈ polls, ∃ st, IsRdsr s.config st p ∧ statusBusy st = true) ∧ polls.flatten.count .sel = k := by
  induction k generalizing s with
  | zero => exact ⟨s, [], rfl, hp, (List.append_nil _).symm, rfl, nofun, rfl⟩
  | succ k ih =>
    obtain ⟨v, poll, replies, delays, draws, hpoll, hbusy, hrun⟩ := run_busyPoll hp hs hk hw
    obtain ⟨t, polls, ht, hphase, htrace, hlen, hpolls, hcount⟩ :=
      ih (s := { s.served { s.device with frame := [] } (s.trace ++ poll) replies delays draws with sr := v, phase := .pollSel })
        rfl hs hk hw
    refine ⟨t, poll :: polls, ?_, hphase, htrace.trans (List.append_assoc ..), congrArg (· + 1) hlen,
      List.forall_mem_cons.2 ⟨⟨v, hpoll, hbusy⟩, hpolls⟩, ?_⟩
    · rw [Nat.mul_succ, Nat.add_comm, run_add hrun, ht]
    · have hone : poll.count .sel = 1 := countP_sel_of_isRdsr hpoll
      rw [List.flatten_cons, List.count_append, hone, hcount, Nat.add_comm]

/-! ### Any number of steps -/

/-- The controller polls a busy reference device, which has received what the poll has sent; and a status byte it holds says busy. -/
structure Hanging (s : State) : Prop where
  schedule : s.schedule = []
  kind : s.device.kind = .reference
  wip : s.device.wip = true
  polling : s.phase.polling = true
  frame : s.phase.selected = true → s.device.frame = sentBytes s
  seen : s.phase.statusHeld = true → statusBusy s.sr = true

/-- From `s` to `t` nothing has happened for the host: its port and its destination are as they were, and the new events are the bus's. -/
structure BusOnly (s t : State) : Prop where
  requests : t.requests = s.requests
  dst : t.dst = s.dst
  trace : ∃ tr, t.trace = s.trace ++ tr ∧ ∀ e ∈ tr, e.isBus = true

theorem busOnly_refl (s : State) : BusOnly s s := ⟨rfl, rfl, [], (List.append_nil _).symm, nofun⟩

theorem BusOnly.trans (h : BusOnly s t) (h' : BusOnly t u) : BusOnly s u := by
  obtain ⟨hreq, hdst, tr, htr, hbus⟩ := h
  obtain ⟨hreq', hdst', tr', htr', hbus'⟩ := h'
  exact ⟨hreq'.trans hreq, hdst'.trans hdst, tr ++ tr', by rw [htr', htr, List.append_assoc],
    List.forall_mem_append.2 ⟨hbus, hbus'⟩⟩

theorem busOnly_event {e : Event} (htr : t.trace = s.trace ++ [e]) (he : e.isBus = true := by rfl)
    (hreq : t.requests = s.requests := by simp) (hdst : t.dst = s.dst := by simp) : BusOnly s t :=
  ⟨hreq, hdst, [e], htr, by simpa⟩

theorem Hanging.busy (h : Hanging s) : s.busy = true := by
  have hpolling := h.polling
  rw [busy_iff]
  constructor <;> rintro hp <;> simp [hp, Phase.polling] at hpolling

/-- The controller's step from a poll of a busy device is total and leads to another row of such a poll. -/
theorem Hanging.step (h : Hanging s) : ∃ t, controllerStep s = .next t ∧ Hanging t ∧ BusOnly s t := by
  obtain ⟨hs, hk, hw, hpolling, hframe, hseen⟩ := h
  cases hp : s.phase <;> simp only [hp, Phase.polling, Bool.false_eq_true] at hpolling
  case pollSel =>
    exact ⟨_, row_pollSel hp, ⟨hs, by simpa, by simpa, rfl, fun _ => select_frame _ hk, nofun⟩, busOnly_event rfl⟩
  case pollOp =>
    have hf := receive_frame _ hk opcodeRdsr
    rw [hframe (by rw [hp]; rfl)] at hf
    exact ⟨_, row_pollOp hp, ⟨by simpa, by simpa, by simpa, rfl, fun _ => by simpa [sentBytes, hp] using hf, nofun⟩,
      busOnly_event rfl⟩
  case pollDummy =>
    have hf : s.device.frame = [opcodeRdsr] := by simpa [hp, Phase.selected, sentBytes] using hframe
    have hbusy := (statusBusy_received hk hf s.config.dummyByte).trans hw
    exact ⟨_, row_pollDummy hp, ⟨by simpa, by simpa, by simpa, rfl,
      fun _ => by simp [sentBytes, receive_frame _ hk, hf], fun _ => hbusy⟩, busOnly_event rfl⟩
  case pollDesel =>
    have hf : s.device.frame = [opcodeRdsr, s.config.dummyByte] := by simpa [hp, Phase.selected, sentBytes] using hframe
    have hd : s.device.deselect s.config = .ok { s.device with frame := [] } := deselect_busy hk hf hw
    have hsr := hseen (by rw [hp]; rfl)
    exact ⟨_, (row_pollDesel hp).trans (deselectStep_of_deselect hd), ⟨hs, hk, hw, rfl, nofun, fun _ => hsr⟩,
      busOnly_event rfl⟩
  case pollHold =>
    have hsr := hseen (by rw [hp]; rfl)
    exact ⟨_, row_pollHold hp, ⟨by simpa, by simpa, by simpa, rfl, nofun, fun _ => by simpa⟩, busOnly_event rfl⟩
  case pollTest =>
    have hsr := hseen (by rw [hp]; rfl)
    exact ⟨_, (row_pollTest hp).trans (pollTestRow_of_busy hsr), ⟨hs, hk, hw, rfl, nofun, nofun⟩,
      ⟨rfl, rfl, [], (List.append_nil _).symm, nofun⟩⟩

theorem Hanging.run (h : Hanging s) (k : Nat) : ∃ t, run k s = .next t ∧ Hanging t ∧ BusOnly s t := by
  induction k generalizing s with
  | zero => exact ⟨s, rfl, h, busOnly_refl s⟩
  | succ k ih =>
    obtain ⟨u, hstep, hu, hquiet⟩ := h.step
    obtain ⟨t, hrun, ht, hquiet'⟩ := ih hu
    exact ⟨t, (run_of_controllerStep h.schedule hstep k).trans hrun, ht, hquiet.trans hquiet'⟩

/-- Settles O18: the polls by induction on their number, and the rows of a poll by induction on the steps. -/
theorem busyDeviceHangs : Obligations.BusyDeviceHangs := by
  intro s hp hs hk hw
  refine ⟨run_busyPolls hp hs hk hw, fun k => ?_⟩
  have hstart : Hanging s := ⟨hs, hk, hw, by rw [hp]; rfl, by rw [hp]; nofun, by rw [hp]; nofun⟩
  obtain ⟨t, hrun, ht, hreq, hdst, tr, htrace, hbus⟩ := hstart.run k
  exact ⟨t, tr, hrun, ht.busy, hreq, hdst, htrace, hbus⟩

end Sys2Proof.Machine
end

section
/-! SUPPORT. `OutOfRange` (60_exceptions R221, R228, R229): the request that raises it is answered at once, and nothing but the range
check of the two host operations raises it. -/

namespace Sys2Proof.Machine

variable {s t : State} {i : Instr}

/-- Acceptance, the range check and the response. -/
theorem run_outOfRange {op : HostOp} {a n : Nat} {src dst : List Byte} (hs : s.schedule = [])
    (haccept : controllerStep s = .next { acceptRequest op a n s with src := src, dst := dst })
    (ho : outOfRange s.config a n = true) : run 3 s =
      .next { s with
        op := op, A := a, N := n, src := src, dst := dst, rstat := .outOfRange, phase := .idle, requests := s.requests.tail,
        trace := s.trace ++ [.req op a n, .resp .outOfRange] } := by
  have hcheck := run_row (run_row (k := 0) rfl hs haccept) hs ((row_check rfl).trans (checkRow_out ho))
  rw [run_row hcheck hs (row_resp rfl)]
  simp [respond, acceptRequest]

theorem linesOff_of_idle (hl : LinesInv s) (hp : s.phase = .idle) : s.csSel = false ∧ s.linkEn = false := by
  obtain ⟨hlink, hsel⟩ := hl
  have hcs : s.csSel = false := by rw [hsel, hp]; rfl
  exact ⟨hcs, hlink.trans hcs⟩

/-- An instruction is a wire command or a host operation. -/
theorem wireCommand_or_hostOperation (i : Instr) :
    (i = .wren ∨ i = .wrdi ∨ i = .rdsr ∨ (∃ a m, i = .read a m) ∨ ∃ a data, i = .write a data) ∨
      (i = .init ∨ (∃ a n b, i = .hostRead a n b) ∨ ∃ a n b, i = .hostWrite a n b) := by
  cases i <;> simp

/-- The range check is the only row that writes `rstat`. -/
theorem check_of_rstat_ne (h : exec i s = .next t) (hne : t.rstat ≠ s.rstat) : s.phase = .check ∧ IsTransfer i := by
  rcases wireCommand_or_hostOperation i with hi | hi
  · obtain ⟨-, -, -, -, -, hrstat, -⟩ := wireCommandFrame i s t hi h
    exact absurd hrstat hne
  · obtain ⟨-, -, -, -, -, -, -, -, -, -, -, -, -, hrstat, -⟩ := hostOperationFrame i s t hi h
    have hp : s.phase = .check := by
      by_contra hp
      exact hne (hrstat hp).1
    refine ⟨hp, hi.resolve_left ?_⟩
    rintro rfl
    cases (execInit_busy (busy_iff.2 (by simp [hp]))).symm.trans h
    exact hne rfl

/-- Settles O24: acceptance, the range check and the response; and of all rows only the range check writes `rstat`. -/
theorem outOfRangeIsQuiet : Obligations.OutOfRangeIsQuiet := by
  refine ⟨fun s r rest op hp hl hs hr hop ha hk ho => ?_, fun i s t h hok hout => ?_⟩
  · obtain ⟨hcs, hlink⟩ := linesOff_of_idle hl hp
    cases op with
    | read => simpa [hr, hp, hcs, hlink] using run_outOfRange hs (controllerStep_acceptRead hp hr hop ha hk) ho
    | write => simpa [hr, hp, hcs, hlink] using run_outOfRange hs (controllerStep_acceptWrite hp hr hop ha hk) ho
  · obtain ⟨hp, hi⟩ := check_of_rstat_ne h (by simp [hok, hout])
    rw [exec_check hi hp] at h
    rcases checkRow_cases h with ⟨ho, -⟩ | ⟨-, -, rfl⟩ | ⟨-, -, rfl⟩
    · exact ⟨hp, ho, hi⟩
    · cases hout
    · cases hout

end Sys2Proof.Machine
end

section
/-! SUPPORT. The reset input (70_reset_and_hazards R250 to R252): what it leaves alone, what it records in a busy phase, that nothing
afterwards forgets the record; and that the state after reset meets the invariants. -/

namespace Sys2Proof.Machine

variable {s t : State}

/-! ### What a reset leaves alone and what it records -/

theorem reset_of_busy (hb : s.busy = true) : reset s =
    { resetController s with device := { s.device with kind := .arbitrary }, recordedFault := some .abortedTransaction } :=
  if_pos hb

theorem reset_of_not_busy (hb : s.busy = false) : reset s = resetController s := by
  simp [reset, hb]

@[simp] theorem reset_csSel (s : State) : (reset s).csSel = false := by unfold reset; split <;> rfl
@[simp] theorem reset_linkEn (s : State) : (reset s).linkEn = false := by unfold reset; split <;> rfl
@[simp] theorem reset_trace (s : State) : (reset s).trace = [] := by unfold reset; split <;> rfl
@[simp] theorem reset_src (s : State) : (reset s).src = s.src := by unfold reset; split <;> rfl
@[simp] theorem reset_dst (s : State) : (reset s).dst = s.dst := by unfold reset; split <;> rfl
@[simp] theorem reset_requests (s : State) : (reset s).requests = s.requests := by unfold reset; split <;> rfl

theorem step_of_reset {rest : List Move} (hs : s.schedule = .reset :: rest) :
    step s = .next (reset { s with schedule := rest }) :=
  step_of_move hs

/-! ### The record is kept -/

theorem row_keeps_recordedFault (h : Row s t) : t.recordedFault = s.recordedFault := by
  cases h <;> simp

theorem reset_keeps_fault (h : s.recordedFault ≠ none) : (reset s).recordedFault ≠ none := by
  cases hb : s.busy with
  | true => rw [reset_of_busy hb]; exact Option.some_ne_none _
  | false => rwa [reset_of_not_busy hb]

/-- No move of any agent forgets a recorded fault. -/
theorem step_keeps_fault (h : step s = .next t) (hf : s.recordedFault ≠ none) : t.recordedFault ≠ none := by
  rcases step_cases h with ⟨v, hturn, hc⟩ | ⟨rest, -, rfl⟩ | ⟨rest, -, rfl⟩ | ⟨rest, r, -, rfl⟩ | ⟨rest, k, b, -, rfl⟩
  · rw [row_keeps_recordedFault (controllerStep_row hc), turn_eq hturn]
    exact hf
  · exact hf
  · exact reset_keeps_fault hf
  · exact hf
  · exact hf

theorem not_goodFinal_of_fault (h : s.recordedFault ≠ none) : ¬ GoodFinal s :=
  fun ⟨_, _, _, hnone⟩ => h hnone

/-- Settles O33: what a reset records and leaves alone, and that no later step forgets the record. -/
theorem resetDuringOperation : Obligations.ResetDuringOperation := by
  refine ⟨fun s t rest hs h => ?_, fun s t h hf => ?_⟩
  · cases (step_of_reset hs).symm.trans h
    refine ⟨reset_src _, reset_dst _, reset_requests _, reset_config _, fun hb => ?_, fun hb => ?_⟩
    · rw [reset_of_busy (s := { s with schedule := rest }) hb]
      exact ⟨rfl, rfl⟩
    · rw [reset_of_not_busy (s := { s with schedule := rest }) hb]
      exact ⟨rfl, rfl⟩
  · have hkept := step_keeps_fault h hf
    exact ⟨hkept, not_goodFinal_of_fault hkept⟩

/-- Settles O32: what the reset move leaves in the phase, the lines and the trace, whatever the state before. -/
theorem resetState : Obligations.ResetState :=
  ⟨fun _ _ hs => ⟨_, step_of_reset hs, reset_phase _, reset_csSel _, reset_linkEn _, reset_trace _⟩, rfl, rfl, rfl, rfl⟩

/-! ### The invariants at reset -/

/-- A reset of the state after reset changes nothing. -/
theorem reset_resetOf (c : Config) : reset (State.resetOf c) = State.resetOf c := rfl

theorem arrayInv_resetOf (c : Config) : ArrayInv (State.resetOf c) :=
  ⟨rfl, List.forall_mem_nil _, List.forall_mem_nil _⟩

/-- The reference device starts with no frame, no write cycle and nothing pending. -/
theorem deviceInv_resetOf (c : Config) : DeviceInv (State.resetOf c) := by
  refine fun _ => ⟨fun b hb => ?_, fun _ => rfl, nofun, nofun, nofun⟩
  cases hb
  rfl

theorem inv_resetOf (c : Config) : Inv (State.resetOf c) := by
  have hregisters := registerInv_reset (State.resetOf c)
  have hbus := busInv_reset (State.resetOf c)
  rw [reset_resetOf] at hregisters hbus
  exact ⟨⟨rfl, rfl⟩, hregisters, hbus, arrayInv_resetOf c, deviceInv_resetOf c⟩

/-- Settles O48, for the build's configuration and for every other. -/
theorem invariantAtReset : Obligations.InvariantAtReset := ⟨inv_resetOf Config.build, inv_resetOf⟩

end Sys2Proof.Machine
end

section
/-! SUPPORT. The request port before INIT and in a busy phase (70_reset_and_hazards R256, R259): a READ or WRITE request is refused in
S_UNINIT; outside S_UNINIT and S_IDLE nothing reads the port or writes it, so that the step is the same whatever stands on it. -/

namespace Sys2Proof.Machine

variable {s : State} {q : List Request} {i : Instr}

/-! ### Before INIT -/

theorem isTransfer_of_decode {c : Config} {r : Request} (hop : r.op = opRead ∨ r.op = opWrite)
    (hd : decode c (.request r) = .ok i) : IsTransfer i := by
  rcases decodeRequest_cases hd with rfl | ⟨-, -, rfl⟩ | ⟨-, -, rfl⟩
  · rcases hop with hop | hop
    · rw [decode, decodeRequest_read hop] at hd
      split at hd <;> cases hd
    · rw [decode, decodeRequest_write hop] at hd
      split at hd <;> cases hd
  · exact .inl ⟨_, _, _, rfl⟩
  · exact .inr ⟨_, _, _, rfl⟩

theorem exec_uninit_refuses (hi : IsTransfer i) (hp : s.phase = .uninit) : exec i s = .next (refuseRequest s) := by
  rcases hi with ⟨a, n, b, rfl⟩ | ⟨a, n, b, rfl⟩ <;> simp only [exec, execHostRead, execHostWrite, hp]

/-- Whether its operands fit or not, the request leaves the port (log 3) and nothing else happens. -/
theorem controllerStep_uninit_refuses {r : Request} {rest : List Request} (hp : s.phase = .uninit) (hr : s.requests = r :: rest)
    (hop : r.op = opRead ∨ r.op = opWrite) : controllerStep s = .next { s with requests := rest } := by
  cases hd : decode s.config (.request r) with
  | error e => exact controllerStep_of_badRequest (.inl hp) hr hd
  | ok i =>
    rw [controllerStep_of_request (.inl hp) hr hd, exec_uninit_refuses (isTransfer_of_decode hop hd) hp, refuseRequest, leavePort, hr]
    rfl

/-- Settles O22: the refusal changes the port and nothing else. -/
theorem requestBeforeInit : Obligations.RequestBeforeInit := by
  intro s t r rest hturn hp hr hop
  exact ⟨{ t with requests := rest }, (step_of_turn hturn).trans (controllerStep_uninit_refuses hp hr hop), hp, by simp⟩

/-! ### A state with other requests on the port -/

/-- The state with other requests on the port. -/
def State.withPort (s : State) (q : List Request) : State := { s with requests := q }

@[simp] theorem withPort_config : (s.withPort q).config = s.config := rfl
@[simp] theorem withPort_phase : (s.withPort q).phase = s.phase := rfl
@[simp] theorem withPort_op : (s.withPort q).op = s.op := rfl
@[simp] theorem withPort_A : (s.withPort q).A = s.A := rfl
@[simp] theorem withPort_N : (s.withPort q).N = s.N := rfl
@[simp] theorem withPort_cur : (s.withPort q).cur = s.cur := rfl
@[simp] theorem withPort_n : (s.withPort q).n = s.n := rfl
@[simp] theorem withPort_i : (s.withPort q).i = s.i := rfl
@[simp] theorem withPort_sr : (s.withPort q).sr = s.sr := rfl
@[simp] theorem withPort_device : (s.withPort q).device = s.device := rfl
@[simp] theorem received_withPort (o : Byte) : received (s.withPort q) o = received s o := rfl
@[simp] theorem memWriteDst_withPort (k : Nat) (v : Byte) : memWriteDst (s.withPort q) k v = memWriteDst s k v := rfl

/-- The outcome with other requests on the port of the state it answers, if it answers one. -/
def resultWithPort (q : List Request) : Result → Result
  | .next t => .next (t.withPort q)
  | .fault f => .fault f
  | .refused e => .refused e

theorem byteDrawn_withPort : (s.withPort q).byteDrawn = s.byteDrawn.withPort q := by
  cases hr : s.replies <;> simp [State.byteDrawn, State.withPort, hr]

theorem delayDrawn_withPort : (s.withPort q).delayDrawn = s.delayDrawn.withPort q := by
  cases hd : s.delays <;> simp [State.delayDrawn, State.withPort, hd]

theorem exchangeDrawn_withPort (o : Byte) : exchangeDrawn (s.withPort q) o = (exchangeDrawn s o).withPort q := by
  unfold exchangeDrawn
  rw [withPort_device, withPort_config, byteDrawn_withPort]
  split <;> rfl

theorem exchange_withPort (o : Byte) : exchange (s.withPort q) o = (exchange s o).withPort q := by
  rw [exchange, exchangeDrawn_withPort]
  rfl

theorem hold_withPort : hold (s.withPort q) = (hold s).withPort q := by
  rw [hold, delayDrawn_withPort]
  rfl

/-! ### No row of a transaction reads the port -/

theorem selectStep_withPort (p : Phase) : selectStep p (s.withPort q) = resultWithPort q (selectStep p s) := rfl

theorem sendStep_withPort (o : Byte) (p : Phase) : sendStep o p (s.withPort q) = resultWithPort q (sendStep o p s) := by
  rw [sendStep, exchange_withPort]
  rfl

theorem holdStep_withPort (p : Phase) : holdStep p (s.withPort q) = resultWithPort q (holdStep p s) := by
  rw [holdStep, hold_withPort]
  rfl

theorem deselectStep_withPort (p : Phase) : deselectStep p (s.withPort q) = resultWithPort q (deselectStep p s) := by
  unfold deselectStep
  rw [withPort_device, withPort_config]
  split <;> rfl

theorem readDataRow_withPort (m : Nat) : readDataRow m (s.withPort q) = resultWithPort q (readDataRow m s) := by
  unfold readDataRow
  rw [withPort_i, withPort_config, received_withPort, memWriteDst_withPort, exchange_withPort]
  split
  · rfl
  · split <;> rfl

theorem readHoldRow_withPort : readHoldRow (s.withPort q) = resultWithPort q (readHoldRow s) := by
  unfold readHoldRow
  rw [withPort_i, withPort_N, holdStep_withPort, holdStep_withPort]
  split
  · rfl
  · split <;> rfl

theorem writeDataRow_withPort (data : List Byte) :
    writeDataRow data (s.withPort q) = resultWithPort q (writeDataRow data s) := by
  unfold writeDataRow
  rw [withPort_i, withPort_n]
  split
  · split
    · rfl
    · rw [exchange_withPort]; rfl
  · rfl

/-! ### The wire commands -/

theorem execWren_withPort : execWren (s.withPort q) = resultWithPort q (execWren s) := by
  unfold execWren
  rw [withPort_phase]
  split
  · exact selectStep_withPort _
  · exact sendStep_withPort _ _
  · exact deselectStep_withPort _
  · exact holdStep_withPort _
  · rfl

theorem execWrdi_withPort : execWrdi (s.withPort q) = resultWithPort q (execWrdi s) := by
  unfold execWrdi
  rw [withPort_phase]
  split
  · exact selectStep_withPort _
  · exact sendStep_withPort _ _
  · exact deselectStep_withPort _
  · rw [hold_withPort]; rfl
  · rfl

theorem execRdsr_withPort : execRdsr (s.withPort q) = resultWithPort q (execRdsr s) := by
  unfold execRdsr
  rw [withPort_phase]
  split
  · exact selectStep_withPort _
  · exact sendStep_withPort _ _
  · rw [exchange_withPort]; rfl
  · exact deselectStep_withPort _
  · exact holdStep_withPort _
  · rfl

theorem execRead_withPort (a : Addr) (m : Nat) : execRead a m (s.withPort q) = resultWithPort q (execRead a m s) := by
  unfold execRead
  rw [withPort_phase]
  split
  · exact selectStep_withPort _
  · exact sendStep_withPort _ _
  · exact sendStep_withPort _ _
  · exact sendStep_withPort _ _
  · exact readDataRow_withPort m
  · exact deselectStep_withPort _
  · exact readHoldRow_withPort
  · rfl

theorem execWrite_withPort (a : Addr) (data : List Byte) :
    execWrite a data (s.withPort q) = resultWithPort q (execWrite a data s) := by
  unfold execWrite
  rw [withPort_phase]
  split
  · exact selectStep_withPort _
  · exact sendStep_withPort _ _
  · exact sendStep_withPort _ _
  · rw [exchange_withPort]; rfl
  · exact writeDataRow_withPort data
  · exact deselectStep_withPort _
  · exact holdStep_withPort _
  · rfl

/-! ### The host operations -/

theorem checkRow_withPort : checkRow (s.withPort q) = resultWithPort q (checkRow s) := by
  unfold checkRow
  rw [withPort_config, withPort_A, withPort_N, withPort_op]
  split
  · rfl
  · split <;> rfl

theorem splitRow_withPort : splitRow (s.withPort q) = resultWithPort q (splitRow s) := by
  unfold splitRow
  rw [withPort_config, withPort_cur, withPort_A, withPort_N]
  split <;> rfl

theorem pollTestRow_withPort : pollTestRow (s.withPort q) = resultWithPort q (pollTestRow s) := by
  unfold pollTestRow
  rw [withPort_sr, withPort_op, withPort_N]
  split
  · rfl
  · split
    · rfl
    · split <;> rfl

theorem execTransfer_withPort (hi : IsTransfer i) (hb : s.busy = true) :
    exec i (s.withPort q) = resultWithPort q (exec i s) := by
  obtain ⟨hu, hidle⟩ := busy_iff.1 hb
  by_cases hf : frameInFlight s = none
  · cases hp : s.phase <;> simp only [frameInFlight, hp, reduceCtorEq] at hf
    case uninit => exact absurd hp hu
    case idle => exact absurd hp hidle
    case check => rw [exec_check hi hp, exec_check (s := s.withPort q) hi hp, checkRow_withPort]
    case split => rw [exec_split hi hp, exec_split (s := s.withPort q) hi hp, splitRow_withPort]
    case pollTest => rw [exec_pollTest hi hp, exec_pollTest (s := s.withPort q) hi hp, pollTestRow_withPort]
    case resp => rw [exec_resp hi hp, exec_resp (s := s.withPort q) hi hp]; rfl
  · rw [exec_of_frameInFlight hi hf, exec_of_frameInFlight (s := s.withPort q) hi hf]
    rfl

/-! ### In a busy phase -/

/-- What a busy controller runs does not depend on the port. -/
theorem busy_runs (hb : s.busy = true) (q : List Request) :
    ∃ i, controllerStep s = exec i s ∧ controllerStep (s.withPort q) = exec i (s.withPort q) := by
  cases hf : frameInFlight s with
  | none =>
    obtain ⟨hu, hi⟩ := busy_iff.1 hb
    exact ⟨latchedOperation s, controllerStep_latched hf hu hi, controllerStep_latched (s := s.withPort q) hf hu hi⟩
  | some bytes =>
    obtain ⟨i, hi⟩ := parseFrame_of_frameInFlight hf
    exact ⟨i, controllerStep_of_fetch (fetch_frame hf hi),
      controllerStep_of_fetch (fetch_frame (s := s.withPort q) hf hi)⟩

theorem exec_withPort (hb : s.busy = true) : exec i (s.withPort q) = resultWithPort q (exec i s) := by
  cases i with
  | wren => exact execWren_withPort
  | wrdi => exact execWrdi_withPort
  | rdsr => exact execRdsr_withPort
  | read a m => exact execRead_withPort a m
  | write a data => exact execWrite_withPort a data
  | init => simp only [exec, execInit_busy hb, execInit_busy (s := s.withPort q) hb, resultWithPort]
  | hostRead a n b => exact execTransfer_withPort (.inl ⟨a, n, b, rfl⟩) hb
  | hostWrite a n b => exact execTransfer_withPort (.inr ⟨a, n, b, rfl⟩) hb

theorem controllerStep_withPort (hb : s.busy = true) (q : List Request) :
    controllerStep (s.withPort q) = resultWithPort q (controllerStep s) := by
  obtain ⟨i, hs, hq⟩ := busy_runs hb q
  rw [hs, hq, exec_withPort hb]

/-- Settles O40: other requests on the port of a busy controller give the same outcome, with these requests still on it. -/
theorem busyPortWaits : Obligations.BusyPortWaits := by
  intro s q hb
  have hstep := controllerStep_withPort hb q
  exact ⟨fun t ht => hstep.trans (congrArg _ ht), fun f hf => hstep.trans (congrArg _ hf)⟩

end Sys2Proof.Machine
end
